-- ==== Sys2Proof/Machine/Literals.lean ====
section
/-!
DEFINITION. The numeric literals the spec rests on, each one named constant (spec/00_scope.md R5 and the table of
spec/93_implementation_defined.md section 2): the requester calls them unaudited, so a corrected value touches one
definition here (log 28). The model's other definitions take every one of them from this file.
-/

namespace Sys2Proof.Literal

/-- Bits of a code word (R10). -/
@[simp] abbrev wordBits : Nat := 16

/-- Bits of an addressing-mode flag (R46). -/
@[simp] abbrev flagBits : Nat := 2

/-- Bits of SIGN (R46). -/
@[simp] abbrev signBits : Nat := 1

/-- Bits of OPCODE (R46). -/
@[simp] abbrev opBits : Nat := 9

/-- Lowest bit of AFLG0 in the instruction word, w[15:14] (R46). -/
@[simp] abbrev aflg0Lo : Nat := 14

/-- Lowest bit of AFLG1, w[13:12] (R46). -/
@[simp] abbrev aflg1Lo : Nat := 12

/-- Lowest bit of AFLG2, w[11:10] (R46). -/
@[simp] abbrev aflg2Lo : Nat := 10

/-- The SIGN bit, w[9] (R46). -/
@[simp] abbrev signLo : Nat := 9

/-- Lowest bit of OPCODE, w[8:0] (R46). -/
@[simp] abbrev opLo : Nat := 0

/-- The bit of a flag that selects the addressing mode, `flag & 2` (R47). -/
@[simp] abbrev modeBit : Nat := 1

/-- Bits of one register index (R10, R49). -/
@[simp] abbrev regBits : Nat := 4

/-- Lowest bit of the operand word's register field, for every k (R49, R74). -/
@[simp] abbrev regFieldLo : Nat := 4

/-- How many ids the low block has: 0..38 (R94). -/
@[simp] abbrev lowCount : Nat := 39

/-- How many ids the high block has (R137). -/
@[simp] abbrev highCount : Nat := 4

/-- The one high-block id the source gives, 0x042 (R137, R138). -/
@[simp] abbrev knownHighId : Nat := 66

/-- The arity of every high-block opcode (R137). -/
@[simp] abbrev highArity : Nat := 2

/-- The arity the immediate-copy opcode must have (R142). -/
@[simp] abbrev immArity : Nat := 2

/-- The largest arity (R10). -/
@[simp] abbrev maxArity : Nat := 3

/-- The largest opcode id, 511 (R53). -/
@[simp] abbrev maxOpId : Nat := 2 ^ opBits - 1

/-- The lowest index that names a register (R79). -/
@[simp] abbrev firstReg : Nat := 1

/-- How many registers are named: indices 1..6 (R79). -/
@[simp] abbrev namedRegs : Nat := 6

/-- The most words one instruction has (R10). -/
@[simp] abbrev maxWords : Nat := 3

/-- Bits of the region length, a word count (R10, R27). -/
@[simp] abbrev lenBits : Nat := 16

/-- The largest region length, 65535 (R10, R27). -/
@[simp] abbrev maxLen : Nat := 2 ^ lenBits - 1

end Sys2Proof.Literal
end

