-- ==== Sys2Proof/Word.lean ====
section
/-!
DEFINITION. The widths of the block's values (spec/00_scope.md R10, R11): the 16-bit code word, the byte it is
built from, and the fields the decoder takes out of a word.
-/

namespace Sys2Proof

/-- One byte of the buffer (spec/20_memory.md R35). -/
abbrev Byte := BitVec 8

/-- One 16-bit word of the code region (R10, R30). -/
abbrev Word := BitVec Literal.wordBits

/-- A 2-bit addressing-mode flag (R10, R46). -/
abbrev Flag := BitVec Literal.flagBits

/-- A 9-bit opcode id, 0..511 (R10, R46). -/
abbrev OpId := BitVec Literal.opBits

/-- The SIGN bit (R10, R46). -/
abbrev Sign := BitVec Literal.signBits

/-- A 4-bit register index (R10, R21). -/
abbrev RegIdx := BitVec Literal.regBits

/-- A mnemonic or register name: a text the block only hands on (R93). -/
abbrev Text := String

end Sys2Proof
end

