-- ==== Sys2Proof/Config.lean ====
section
/-!
DEFINITION. The configuration: every parameter of spec/00_scope.md R9, under its own name. The spec leaves their values
open (92_eei_decisions.md D3, D4, D10, D18), so they are fields of one structure that State holds and no step writes
(R23), and a statement about every state is a statement about every configuration (log 1). The tables made of them
(opcode table ROM, register namer ROM) are in Sys2Proof/Machine/Rom.lean; the checks of R92 in Sys2Proof/WellFormed.lean.
-/

namespace Sys2Proof

/-- OPERAND_NIBBLE_ORDER: which nibble of the operand word holds idx0 (R9, R50). -/
inductive NibbleOrder where
  | msbFirst
  | lsbFirst
deriving DecidableEq, Repr

/-- BYTE_ORDER: how two bytes form one word (R9, R35). -/
inductive ByteOrder where
  | little
  | big
deriving DecidableEq, Repr

/-- The parameters of R9. Arities and ids are counts and ids as the spec writes them, so that the checks of R92 are
checks and not types; a configuration that fails one is refused (R92, D20). -/
structure Config where
  /-- `ARITY_0` .. `ARITY_38` (R94). -/
  arityLow : Vector Nat Literal.lowCount
  /-- `MNEMONIC_0` .. `MNEMONIC_38` (R93). -/
  mnemLow : Vector Text Literal.lowCount
  /-- `S1`, the first singleton id (R134). -/
  s1 : Nat
  /-- `S2`, the second singleton id (R134). -/
  s2 : Nat
  /-- `ARITY_S1` (R135). -/
  arityS1 : Nat
  /-- `ARITY_S2` (R136). -/
  arityS2 : Nat
  /-- `MNEMONIC_S1` (R135). -/
  mnemS1 : Text
  /-- `MNEMONIC_S2` (R136). -/
  mnemS2 : Text
  /-- `HIGH_BASE`, the first id of the high block (R137). -/
  highBase : Nat
  /-- The mnemonics of ids `HIGH_BASE` .. `HIGH_BASE+3`, in id order (R93, R137). -/
  mnemHigh : Vector Text Literal.highCount
  /-- `SENTINEL_ID` (R143). -/
  sentinelId : Nat
  /-- `IMM_COPY_ID` (R26, R142). -/
  immCopyId : Nat
  /-- `REG_NAME_1` .. `REG_NAME_6` (R79). -/
  regNames : Vector Text Literal.namedRegs
  /-- `NIL_NAME` (R79). -/
  nilName : Text
  /-- `ERROR_TEXT` (R144). -/
  errorText : Text
  /-- `OPERAND_NIBBLE_ORDER` (R50, R73). -/
  nibbleOrder : NibbleOrder
  /-- `BYTE_ORDER` (R35). -/
  byteOrder : ByteOrder
deriving DecidableEq, Repr

/-- The six named checks of R92. -/
inductive ConfigCheck where
  | wfLow
  | wfSingle
  | wfHigh
  | wfSentinel
  | wfImm
  | wfRegs
deriving DecidableEq, Repr

end Sys2Proof
end

