-- ==== Sys2Proof/Machine/Rom.lean ====
section
/-!
DEFINITION. The two read-only tables, made of the configuration's parameters: the opcode table ROM (spec/10_state.md
R24, 43_opcode_catalogue.md R91) and the register namer ROM (R25, 41_operand_unpack.md R79); and the configuration that
`Machine.State.reset` holds.
-/

namespace Sys2Proof

/-- `Populated` on an id: the ids of R94, R134 and R137 (R91). -/
def Config.populatedId (c : Config) (id : Nat) : Bool :=
  decide (id < Literal.lowCount) || decide (id = c.s1) || decide (id = c.s2) ||
    (decide (c.highBase ≤ id) && decide (id < c.highBase + Literal.highCount))

/-- `ARITY` on an id: an explicit mapping of the populated ids, and 0 for every other (R91, R94, R134, R137, R144). -/
def Config.arityId (c : Config) (id : Nat) : Nat :=
  if h : id < Literal.lowCount then c.arityLow[id]
  else if id = c.s1 then c.arityS1
  else if id = c.s2 then c.arityS2
  else if c.highBase ≤ id ∧ id < c.highBase + Literal.highCount then Literal.highArity
  else 0

/-- `MNEM` on an id: an explicit mapping of the populated ids, and `ERROR_TEXT` for every other (R91, R93, R144). -/
def Config.mnemId (c : Config) (id : Nat) : Text :=
  if h : id < Literal.lowCount then c.mnemLow[id]
  else if id = c.s1 then c.mnemS1
  else if id = c.s2 then c.mnemS2
  else if h : c.highBase ≤ id ∧ id < c.highBase + Literal.highCount then c.mnemHigh[id - c.highBase]
  else c.errorText

/-- `Populated(op)` (R91). -/
def Config.populated (c : Config) (op : OpId) : Bool := c.populatedId op.toNat

/-- `ARITY(op)`, the opcode table ROM's first column (R24, R91). -/
def Config.arity (c : Config) (op : OpId) : Nat := c.arityId op.toNat

/-- `MNEM(op)`, the opcode table ROM's second column (R24, R91). -/
def Config.mnem (c : Config) (op : OpId) : Text := c.mnemId op.toNat

/-- The high-block id of place `j` (0, 1, 2) among those other than 66, in increasing order (R139, R140, R141). -/
def Config.highOther (c : Config) (j : Nat) : Nat :=
  if c.highBase + j < Literal.knownHighId then c.highBase + j else c.highBase + j + 1

/-- `H_a` (R139). -/
def Config.highA (c : Config) : Nat := c.highOther 0

/-- `H_b` (R140). -/
def Config.highB (c : Config) : Nat := c.highOther 1

/-- `H_c` (R141). -/
def Config.highC (c : Config) : Nat := c.highOther 2

/-- A decoded index is a valid register when it is 1..6 (R80). -/
def RegIdx.isValid (r : RegIdx) : Bool :=
  decide (Literal.firstReg ≤ r.toNat) && decide (r.toNat < Literal.firstReg + Literal.namedRegs)

/-- `NAME(r)`, the register namer ROM: total, `NIL_NAME` for 0 and 7..15 (R25, R79). -/
def Config.nameOf (c : Config) (r : RegIdx) : Text :=
  if h : Literal.firstReg ≤ r.toNat ∧ r.toNat < Literal.firstReg + Literal.namedRegs then
    c.regNames[r.toNat - Literal.firstReg]
  else c.nilName

/-- The configuration `Machine.State.reset` holds. DESIGN CHOICE, unsafe (log 2, log 3, log 6, log 7): the source gives none of
these values, so each id and arity is the least one R92 admits, each text is its parameter's own name, and the three
parameters with a default in the spec (ERROR_TEXT, OPERAND_NIBBLE_ORDER, BYTE_ORDER) have that default. No statement
rests on it. -/
def Config.atReset : Config where
  arityLow := Vector.replicate Literal.lowCount 0
  mnemLow := Vector.ofFn fun i => "MNEMONIC_" ++ toString i.val
  s1 := 39
  s2 := 40
  arityS1 := 0
  arityS2 := 0
  mnemS1 := "MNEMONIC_S1"
  mnemS2 := "MNEMONIC_S2"
  highBase := 63
  mnemHigh := #v["MNEMONIC_H_a", "MNEMONIC_H_b", "MNEMONIC_H_c", "MNEMONIC_66"]
  sentinelId := 67
  immCopyId := 63
  regNames := #v["REG_NAME_1", "REG_NAME_2", "REG_NAME_3", "REG_NAME_4", "REG_NAME_5", "REG_NAME_6"]
  nilName := "NIL_NAME"
  errorText := "ERROR"
  nibbleOrder := .msbFirst
  byteOrder := .little

end Sys2Proof
end

