-- ==== Sys2Proof/Syntax.lean ====
section
/-!
DEFINITION. The instructions: one constructor per row of spec/opcode_table.json, each with what its format "I[O][M]"
(spec/30_encoding.md R44) admits: the raw fields of the instruction word, the operand word when the instruction has one,
the immediate word when it has one. An id that a constructor fixes is not repeated as an operand.
-/

namespace Sys2Proof

/-- The fields of the instruction word other than OPCODE, raw (R46). -/
structure Head where
  aflg0 : Flag
  aflg1 : Flag
  aflg2 : Flag
  sign : Sign
deriving DecidableEq, Repr

/-- The mode of one operand position: register, non-register (immediate/memory-addressed), or no mode because the
position is at or beyond the arity (R47, R61). -/
inductive Mode where
  | reg
  | nonReg
  | none
deriving DecidableEq, Repr

/-- An instruction of the opcode table. `h` holds the raw flags and SIGN, `ow` the operand word, `imm` the immediate
word; a word the instruction has no room for, or that is missing, is `none` (log 11). -/
inductive Instr where
  /-- Opcode 0, `MNEMONIC_0` (R95). -/
  | op0 (h : Head) (ow imm : Option Word)
  /-- Opcode 1, `MNEMONIC_1` (R96). -/
  | op1 (h : Head) (ow imm : Option Word)
  /-- Opcode 2, `MNEMONIC_2` (R97). -/
  | op2 (h : Head) (ow imm : Option Word)
  /-- Opcode 3, `MNEMONIC_3` (R98). -/
  | op3 (h : Head) (ow imm : Option Word)
  /-- Opcode 4, `MNEMONIC_4` (R99). -/
  | op4 (h : Head) (ow imm : Option Word)
  /-- Opcode 5, `MNEMONIC_5` (R100). -/
  | op5 (h : Head) (ow imm : Option Word)
  /-- Opcode 6, `MNEMONIC_6` (R101). -/
  | op6 (h : Head) (ow imm : Option Word)
  /-- Opcode 7, `MNEMONIC_7` (R102). -/
  | op7 (h : Head) (ow imm : Option Word)
  /-- Opcode 8, `MNEMONIC_8` (R103). -/
  | op8 (h : Head) (ow imm : Option Word)
  /-- Opcode 9, `MNEMONIC_9` (R104). -/
  | op9 (h : Head) (ow imm : Option Word)
  /-- Opcode 10, `MNEMONIC_10` (R105). -/
  | op10 (h : Head) (ow imm : Option Word)
  /-- Opcode 11, `MNEMONIC_11` (R106). -/
  | op11 (h : Head) (ow imm : Option Word)
  /-- Opcode 12, `MNEMONIC_12` (R107). -/
  | op12 (h : Head) (ow imm : Option Word)
  /-- Opcode 13, `MNEMONIC_13` (R108). -/
  | op13 (h : Head) (ow imm : Option Word)
  /-- Opcode 14, `MNEMONIC_14` (R109). -/
  | op14 (h : Head) (ow imm : Option Word)
  /-- Opcode 15, `MNEMONIC_15` (R110). -/
  | op15 (h : Head) (ow imm : Option Word)
  /-- Opcode 16, `MNEMONIC_16` (R111). -/
  | op16 (h : Head) (ow imm : Option Word)
  /-- Opcode 17, `MNEMONIC_17` (R112). -/
  | op17 (h : Head) (ow imm : Option Word)
  /-- Opcode 18, `MNEMONIC_18` (R113). -/
  | op18 (h : Head) (ow imm : Option Word)
  /-- Opcode 19, `MNEMONIC_19` (R114). -/
  | op19 (h : Head) (ow imm : Option Word)
  /-- Opcode 20, `MNEMONIC_20` (R115). -/
  | op20 (h : Head) (ow imm : Option Word)
  /-- Opcode 21, `MNEMONIC_21` (R116). -/
  | op21 (h : Head) (ow imm : Option Word)
  /-- Opcode 22, `MNEMONIC_22` (R117). -/
  | op22 (h : Head) (ow imm : Option Word)
  /-- Opcode 23, `MNEMONIC_23` (R118). -/
  | op23 (h : Head) (ow imm : Option Word)
  /-- Opcode 24, `MNEMONIC_24` (R119). -/
  | op24 (h : Head) (ow imm : Option Word)
  /-- Opcode 25, `MNEMONIC_25` (R120). -/
  | op25 (h : Head) (ow imm : Option Word)
  /-- Opcode 26, `MNEMONIC_26` (R121). -/
  | op26 (h : Head) (ow imm : Option Word)
  /-- Opcode 27, `MNEMONIC_27` (R122). -/
  | op27 (h : Head) (ow imm : Option Word)
  /-- Opcode 28, `MNEMONIC_28` (R123). -/
  | op28 (h : Head) (ow imm : Option Word)
  /-- Opcode 29, `MNEMONIC_29` (R124). -/
  | op29 (h : Head) (ow imm : Option Word)
  /-- Opcode 30, `MNEMONIC_30` (R125). -/
  | op30 (h : Head) (ow imm : Option Word)
  /-- Opcode 31, `MNEMONIC_31` (R126). -/
  | op31 (h : Head) (ow imm : Option Word)
  /-- Opcode 32, `MNEMONIC_32` (R127). -/
  | op32 (h : Head) (ow imm : Option Word)
  /-- Opcode 33, `MNEMONIC_33` (R128). -/
  | op33 (h : Head) (ow imm : Option Word)
  /-- Opcode 34, `MNEMONIC_34` (R129). -/
  | op34 (h : Head) (ow imm : Option Word)
  /-- Opcode 35, `MNEMONIC_35` (R130). -/
  | op35 (h : Head) (ow imm : Option Word)
  /-- Opcode 36, `MNEMONIC_36` (R131). -/
  | op36 (h : Head) (ow imm : Option Word)
  /-- Opcode 37, `MNEMONIC_37` (R132). -/
  | op37 (h : Head) (ow imm : Option Word)
  /-- Opcode 38, `MNEMONIC_38` (R133). -/
  | op38 (h : Head) (ow imm : Option Word)
  /-- Opcode S1, the first singleton (R135). -/
  | s1 (h : Head) (ow imm : Option Word)
  /-- Opcode S2, the second singleton (R136). -/
  | s2 (h : Head) (ow imm : Option Word)
  /-- Opcode H_a, the first high-block id other than 66 (R139). -/
  | ha (h : Head) (ow imm : Option Word)
  /-- Opcode H_b, the second high-block id other than 66 (R140). -/
  | hb (h : Head) (ow imm : Option Word)
  /-- Opcode 66, the high-block id the source gives (R138). -/
  | op66 (h : Head) (ow imm : Option Word)
  /-- Opcode H_c, the third high-block id other than 66 (R141). -/
  | hc (h : Head) (ow imm : Option Word)
  /-- The immediate-copy opcode, id `IMM_COPY_ID`; it overlays the populated arity-2 row of that id (R142, log 12). -/
  | immCopy (h : Head) (ow imm : Option Word)
  /-- The end-of-table sentinel, id `SENTINEL_ID`: one word (R143, R144). -/
  | sentinel (h : Head)
  /-- Any other unpopulated id, carried in `op`: one word (R144). -/
  | errorClass (op : OpId) (h : Head)
deriving DecidableEq, Repr

end Sys2Proof
end

