-- ==== Sys2Proof/Machine/Opcodes.lean ====
section
/-!
DEFINITION. What each constructor of `Instr` stands for in the encoding: its opcode id under a configuration, its raw
fields and its trailing words (spec/43_opcode_catalogue.md, one rule per constructor), and the constructor that the low
block gives each of its ids.
-/

namespace Sys2Proof

/-- The opcode id of an instruction's row: the `match` column of the table, or the parameter that names it (R95..R144). -/
def Instr.opcode (c : Config) : Instr → OpId
  | .op0 _ _ _ => 0
  | .op1 _ _ _ => 1
  | .op2 _ _ _ => 2
  | .op3 _ _ _ => 3
  | .op4 _ _ _ => 4
  | .op5 _ _ _ => 5
  | .op6 _ _ _ => 6
  | .op7 _ _ _ => 7
  | .op8 _ _ _ => 8
  | .op9 _ _ _ => 9
  | .op10 _ _ _ => 10
  | .op11 _ _ _ => 11
  | .op12 _ _ _ => 12
  | .op13 _ _ _ => 13
  | .op14 _ _ _ => 14
  | .op15 _ _ _ => 15
  | .op16 _ _ _ => 16
  | .op17 _ _ _ => 17
  | .op18 _ _ _ => 18
  | .op19 _ _ _ => 19
  | .op20 _ _ _ => 20
  | .op21 _ _ _ => 21
  | .op22 _ _ _ => 22
  | .op23 _ _ _ => 23
  | .op24 _ _ _ => 24
  | .op25 _ _ _ => 25
  | .op26 _ _ _ => 26
  | .op27 _ _ _ => 27
  | .op28 _ _ _ => 28
  | .op29 _ _ _ => 29
  | .op30 _ _ _ => 30
  | .op31 _ _ _ => 31
  | .op32 _ _ _ => 32
  | .op33 _ _ _ => 33
  | .op34 _ _ _ => 34
  | .op35 _ _ _ => 35
  | .op36 _ _ _ => 36
  | .op37 _ _ _ => 37
  | .op38 _ _ _ => 38
  | .s1 _ _ _ => .ofNat _ c.s1
  | .s2 _ _ _ => .ofNat _ c.s2
  | .ha _ _ _ => .ofNat _ c.highA
  | .hb _ _ _ => .ofNat _ c.highB
  | .op66 _ _ _ => .ofNat _ Literal.knownHighId
  | .hc _ _ _ => .ofNat _ c.highC
  | .immCopy _ _ _ => .ofNat _ c.immCopyId
  | .sentinel _ => .ofNat _ c.sentinelId
  | .errorClass op _ => op

/-- The raw flags and SIGN of an instruction (R46). -/
def Instr.head : Instr → Head
  | .op0 h _ _ => h
  | .op1 h _ _ => h
  | .op2 h _ _ => h
  | .op3 h _ _ => h
  | .op4 h _ _ => h
  | .op5 h _ _ => h
  | .op6 h _ _ => h
  | .op7 h _ _ => h
  | .op8 h _ _ => h
  | .op9 h _ _ => h
  | .op10 h _ _ => h
  | .op11 h _ _ => h
  | .op12 h _ _ => h
  | .op13 h _ _ => h
  | .op14 h _ _ => h
  | .op15 h _ _ => h
  | .op16 h _ _ => h
  | .op17 h _ _ => h
  | .op18 h _ _ => h
  | .op19 h _ _ => h
  | .op20 h _ _ => h
  | .op21 h _ _ => h
  | .op22 h _ _ => h
  | .op23 h _ _ => h
  | .op24 h _ _ => h
  | .op25 h _ _ => h
  | .op26 h _ _ => h
  | .op27 h _ _ => h
  | .op28 h _ _ => h
  | .op29 h _ _ => h
  | .op30 h _ _ => h
  | .op31 h _ _ => h
  | .op32 h _ _ => h
  | .op33 h _ _ => h
  | .op34 h _ _ => h
  | .op35 h _ _ => h
  | .op36 h _ _ => h
  | .op37 h _ _ => h
  | .op38 h _ _ => h
  | .s1 h _ _ => h
  | .s2 h _ _ => h
  | .ha h _ _ => h
  | .hb h _ _ => h
  | .op66 h _ _ => h
  | .hc h _ _ => h
  | .immCopy h _ _ => h
  | .sentinel h => h
  | .errorClass _ h => h

/-- The operand word of an instruction; the sentinel and the ERROR class have none (R49, R144). -/
def Instr.opword : Instr → Option Word
  | .op0 _ ow _ => ow
  | .op1 _ ow _ => ow
  | .op2 _ ow _ => ow
  | .op3 _ ow _ => ow
  | .op4 _ ow _ => ow
  | .op5 _ ow _ => ow
  | .op6 _ ow _ => ow
  | .op7 _ ow _ => ow
  | .op8 _ ow _ => ow
  | .op9 _ ow _ => ow
  | .op10 _ ow _ => ow
  | .op11 _ ow _ => ow
  | .op12 _ ow _ => ow
  | .op13 _ ow _ => ow
  | .op14 _ ow _ => ow
  | .op15 _ ow _ => ow
  | .op16 _ ow _ => ow
  | .op17 _ ow _ => ow
  | .op18 _ ow _ => ow
  | .op19 _ ow _ => ow
  | .op20 _ ow _ => ow
  | .op21 _ ow _ => ow
  | .op22 _ ow _ => ow
  | .op23 _ ow _ => ow
  | .op24 _ ow _ => ow
  | .op25 _ ow _ => ow
  | .op26 _ ow _ => ow
  | .op27 _ ow _ => ow
  | .op28 _ ow _ => ow
  | .op29 _ ow _ => ow
  | .op30 _ ow _ => ow
  | .op31 _ ow _ => ow
  | .op32 _ ow _ => ow
  | .op33 _ ow _ => ow
  | .op34 _ ow _ => ow
  | .op35 _ ow _ => ow
  | .op36 _ ow _ => ow
  | .op37 _ ow _ => ow
  | .op38 _ ow _ => ow
  | .s1 _ ow _ => ow
  | .s2 _ ow _ => ow
  | .ha _ ow _ => ow
  | .hb _ ow _ => ow
  | .op66 _ ow _ => ow
  | .hc _ ow _ => ow
  | .immCopy _ ow _ => ow
  | .sentinel _ => none
  | .errorClass _ _ => none

/-- The immediate word of an instruction; the sentinel and the ERROR class have none (R51, R144). -/
def Instr.imm : Instr → Option Word
  | .op0 _ _ imm => imm
  | .op1 _ _ imm => imm
  | .op2 _ _ imm => imm
  | .op3 _ _ imm => imm
  | .op4 _ _ imm => imm
  | .op5 _ _ imm => imm
  | .op6 _ _ imm => imm
  | .op7 _ _ imm => imm
  | .op8 _ _ imm => imm
  | .op9 _ _ imm => imm
  | .op10 _ _ imm => imm
  | .op11 _ _ imm => imm
  | .op12 _ _ imm => imm
  | .op13 _ _ imm => imm
  | .op14 _ _ imm => imm
  | .op15 _ _ imm => imm
  | .op16 _ _ imm => imm
  | .op17 _ _ imm => imm
  | .op18 _ _ imm => imm
  | .op19 _ _ imm => imm
  | .op20 _ _ imm => imm
  | .op21 _ _ imm => imm
  | .op22 _ _ imm => imm
  | .op23 _ _ imm => imm
  | .op24 _ _ imm => imm
  | .op25 _ _ imm => imm
  | .op26 _ _ imm => imm
  | .op27 _ _ imm => imm
  | .op28 _ _ imm => imm
  | .op29 _ _ imm => imm
  | .op30 _ _ imm => imm
  | .op31 _ _ imm => imm
  | .op32 _ _ imm => imm
  | .op33 _ _ imm => imm
  | .op34 _ _ imm => imm
  | .op35 _ _ imm => imm
  | .op36 _ _ imm => imm
  | .op37 _ _ imm => imm
  | .op38 _ _ imm => imm
  | .s1 _ _ imm => imm
  | .s2 _ _ imm => imm
  | .ha _ _ imm => imm
  | .hb _ _ imm => imm
  | .op66 _ _ imm => imm
  | .hc _ _ imm => imm
  | .immCopy _ _ imm => imm
  | .sentinel _ => none
  | .errorClass _ _ => none

/-- The constructor of each id of the low block, 0..38 (R94). -/
def lowInstr : Nat → Option (Head → Option Word → Option Word → Instr)
  | 0 => some .op0
  | 1 => some .op1
  | 2 => some .op2
  | 3 => some .op3
  | 4 => some .op4
  | 5 => some .op5
  | 6 => some .op6
  | 7 => some .op7
  | 8 => some .op8
  | 9 => some .op9
  | 10 => some .op10
  | 11 => some .op11
  | 12 => some .op12
  | 13 => some .op13
  | 14 => some .op14
  | 15 => some .op15
  | 16 => some .op16
  | 17 => some .op17
  | 18 => some .op18
  | 19 => some .op19
  | 20 => some .op20
  | 21 => some .op21
  | 22 => some .op22
  | 23 => some .op23
  | 24 => some .op24
  | 25 => some .op25
  | 26 => some .op26
  | 27 => some .op27
  | 28 => some .op28
  | 29 => some .op29
  | 30 => some .op30
  | 31 => some .op31
  | 32 => some .op32
  | 33 => some .op33
  | 34 => some .op34
  | 35 => some .op35
  | 36 => some .op36
  | 37 => some .op37
  | 38 => some .op38
  | _ => none

end Sys2Proof
end

