-- ==== Sys2Proof/Machine/Flags.lean ====
section
/-!
DEFINITION. The addressing-mode flags of the instruction word: how it is split and put together (spec/30_encoding.md
R46), which positions are in register mode (R47, 40_decode.md R61) and how many (R62). The block has no status flags
(10_state.md R22), so there is no other flag computation.
-/

namespace Sys2Proof

/-- OPCODE, w[8:0] (R46). -/
def opcodeField (w : Word) : OpId := w.extractLsb' Literal.opLo Literal.opBits

/-- AFLG0..2 and SIGN of an instruction word, by shift and mask (R46, R59). -/
def headField (w : Word) : Head where
  aflg0 := w.extractLsb' Literal.aflg0Lo Literal.flagBits
  aflg1 := w.extractLsb' Literal.aflg1Lo Literal.flagBits
  aflg2 := w.extractLsb' Literal.aflg2Lo Literal.flagBits
  sign := w.extractLsb' Literal.signLo Literal.signBits

/-- The instruction word of an opcode and its raw fields, `aabbccsooooooooo` from bit 15 to bit 0, each field shifted to
its place (R46). -/
def headWord (op : OpId) (h : Head) : Word :=
  (h.aflg0.setWidth Literal.wordBits <<< Literal.aflg0Lo) ||| (h.aflg1.setWidth Literal.wordBits <<< Literal.aflg1Lo) |||
    (h.aflg2.setWidth Literal.wordBits <<< Literal.aflg2Lo) ||| (h.sign.setWidth Literal.wordBits <<< Literal.signLo) |||
    (op.setWidth Literal.wordBits <<< Literal.opLo)

/-- The mode of position `i` of an opcode of arity `n`: only bit 1 of its flag counts, and a position at or beyond `n`
has no mode and its flag is not examined (R47, R61). -/
def modeAt (n i : Nat) (f : Flag) : Mode :=
  if i < n then (if f.getLsbD Literal.modeBit then .nonReg else .reg) else .none

/-- The modes of positions 0, 1, 2 (R61, R67). -/
def modesOf (n : Nat) (h : Head) : List Mode := [modeAt n 0 h.aflg0, modeAt n 1 h.aflg1, modeAt n 2 h.aflg2]

/-- `k`, the number of register-mode positions (R47, R62). -/
def regCount (n : Nat) (h : Head) : Nat := (modesOf n h).count .reg

end Sys2Proof
end

