-- ==== Sys2Proof/Machine/Operands.lean ====
section
/-!
DEFINITION. The operand unpacker (spec/41_operand_unpack.md section 1), the size formula (30_encoding.md R44, 40_decode.md
R66) and the derived view of which position an index belongs to (R69).
-/

namespace Sys2Proof

/-- The lowest bit of the nibble that holds idx_j, j < k, when `k` indices are packed: the field's lowest nibble starts at
bit 4, above the 4 reserved bits (R49), so this is `4*(k-j)` and `4*(j+1)` of R73. -/
def nibbleLo (o : NibbleOrder) (k j : Nat) : Nat :=
  match o with
  | .msbFirst => Literal.regFieldLo + Literal.regBits * (k - 1 - j)
  | .lsbFirst => Literal.regFieldLo + Literal.regBits * j

/-- `Unpack(ow, k)`: the indices idx0 .. idx(k-1); no value of the other bits matters and none fails (R73, R75..R78). -/
def unpack (o : NibbleOrder) (ow : Word) (k : Nat) : List RegIdx :=
  (List.range k).map fun j => ow.extractLsb' (nibbleLo o k j) Literal.regBits

/-- `1 + (k ≥ 1) + (OPCODE = IMM_COPY_ID)` (R44, R66). -/
def sizeOfShape (k : Nat) (isImm : Bool) : Nat := 1 + (if 1 ≤ k then 1 else 0) + (if isImm then 1 else 0)

/-- Is this the immediate-copy opcode (R26, R64)? -/
def Config.isImmCopy (c : Config) (op : OpId) : Bool := decide (op.toNat = c.immCopyId)

/-- `pos_of(j)`: the position idx_j belongs to, the j-th register-mode position in increasing order; a derived view that
no decoded field depends on (R69, D12). -/
def posOf (modes : List Mode) (j : Nat) : Option Nat :=
  ((List.range modes.length).filter fun i => modes[i]? == some Mode.reg)[j]?

end Sys2Proof
end

