-- ==== Sys2Proof/WellFormed.lean ====
section
/-!
DEFINITION. The checks on a configuration (spec/43_opcode_catalogue.md R92) and on an instruction: that its constructor
is the one its id decodes to, and that it has exactly the trailing words its layout has (30_encoding.md R44, R49, R51).
-/

namespace Sys2Proof

/-- What each named check of R92 asks. -/
def ConfigCheck.holds (k : ConfigCheck) (c : Config) : Bool :=
  match k with
  | .wfLow => c.arityLow.toList.all fun a => decide (a ≤ Literal.maxArity)
  | .wfSingle => decide (Literal.lowCount ≤ c.s1) && decide (c.s1 < c.s2) && decide (c.s2 < c.highBase) &&
      decide (c.arityS1 ≤ Literal.maxArity) && decide (c.arityS2 ≤ Literal.maxArity)
  | .wfHigh => decide (c.highBase ≤ Literal.knownHighId) &&
      decide (Literal.knownHighId < c.highBase + Literal.highCount)
  | .wfSentinel => decide (c.highBase + Literal.highCount ≤ c.sentinelId) && decide (c.sentinelId ≤ Literal.maxOpId)
  | .wfImm => c.populatedId c.immCopyId && decide (c.arityId c.immCopyId = Literal.immArity)
  | .wfRegs => decide c.regNames.toList.Nodup

/-- The six checks in the order of R92. -/
def ConfigCheck.all : List ConfigCheck := [.wfLow, .wfSingle, .wfHigh, .wfSentinel, .wfImm, .wfRegs]

/-- The first check of R92 a configuration fails, if any. -/
def Config.failedCheck (c : Config) : Option ConfigCheck := ConfigCheck.all.find? fun k => !k.holds c

/-- A configuration is well formed when every check of R92 holds. -/
def Config.wf (c : Config) : Bool := ConfigCheck.all.all fun k => k.holds c

/-- The arity the opcode table gives an instruction's id (R60). -/
def Instr.arity (c : Config) (i : Instr) : Nat := c.arity (i.opcode c)

/-- `k` of an instruction (R62). -/
def Instr.k (c : Config) (i : Instr) : Nat := regCount (i.arity c) i.head

/-- The size of an instruction in words (R44, R66). -/
def Instr.size (c : Config) (i : Instr) : Nat := sizeOfShape (i.k c) (c.isImmCopy (i.opcode c))

/-- The constructor is the one the decoder gives this id: an id equal to IMM_COPY_ID is the overlay's, and the ERROR
class holds the unpopulated ids other than the sentinel's (log 12). -/
def Instr.idOk (c : Config) (i : Instr) : Bool :=
  match i with
  | .immCopy _ _ _ => true
  | .sentinel _ => true
  | .errorClass op _ => !c.populated op && decide (op.toNat ≠ c.sentinelId)
  | i => !c.isImmCopy (i.opcode c)

/-- The operand word is there exactly when k ≥ 1 (R49). -/
def Instr.operandOk (c : Config) (i : Instr) : Bool := decide (i.opword.isSome = decide (1 ≤ i.k c))

/-- The immediate word is there exactly for IMM_COPY_ID (R51). -/
def Instr.immediateOk (c : Config) (i : Instr) : Bool := decide (i.imm.isSome = c.isImmCopy (i.opcode c))

/-- An instruction is well formed under a configuration. -/
def Instr.wf (c : Config) (i : Instr) : Bool := i.idOk c && i.operandOk c && i.immediateOk c

end Sys2Proof
end

