-- ==== Sys2Proof/Decode.lean ====
section
/-!
DEFINITION. The decoder of instruction words (spec/30_encoding.md, 40_decode.md R58..R66) on a list of code words, total,
rejecting by name; and after it the encoder. The block's interface is word-granular (20_memory.md R34), so both work on
words.
-/

namespace Sys2Proof

/-- Why no instruction can be read from a list of words. -/
inductive DecodeError where
  /-- There is no instruction word: the cursor is at or beyond the region's end (R58). -/
  | noWord
  /-- The trailing word `missing` words after the instruction word is needed and is not there (R65). -/
  | truncated (missing : Nat)
deriving DecidableEq, Repr

/-- The constructor an id decodes to (R53, R91). IMM_COPY_ID overlays its populated row (R142); the sentinel's id has its
own row among the unpopulated ones (R143). -/
def instrOf (c : Config) (op : OpId) (h : Head) (ow imm : Option Word) : Instr :=
  if c.isImmCopy op then .immCopy h ow imm
  else
    match lowInstr op.toNat with
    | some f => f h ow imm
    | none =>
      if op.toNat = c.s1 then .s1 h ow imm
      else if op.toNat = c.s2 then .s2 h ow imm
      else if op.toNat = Literal.knownHighId then .op66 h ow imm
      else if op.toNat = c.highA then .ha h ow imm
      else if op.toNat = c.highB then .hb h ow imm
      else if op.toNat = c.highC then .hc h ow imm
      else if op.toNat = c.sentinelId then .sentinel h
      else .errorClass op h

/-- Take the next word of a list when it is needed; `none` when it is needed and not there (R63, R64). -/
def takeWord (needed : Bool) (ws : List Word) : Option (Option Word × List Word) :=
  match needed, ws with
  | false, ws => some (none, ws)
  | true, w :: ws => some (some w, ws)
  | true, [] => none

/-- Decode one instruction from the front of a list of words: the instruction word, the operand word iff k ≥ 1, the
immediate word iff the opcode is IMM_COPY_ID (R58..R64). -/
def decode (c : Config) (words : List Word) : Except DecodeError (Instr × List Word) :=
  match words with
  | [] => .error .noWord
  | w :: rest =>
    let op := opcodeField w
    let h := headField w
    let k := regCount (c.arity op) h
    match takeWord (decide (1 ≤ k)) rest with
    | none => .error (.truncated 1)
    | some (ow, rest1) =>
      match takeWord (c.isImmCopy op) rest1 with
      | none => .error (.truncated (sizeOfShape k false))
      | some (imm, rest2) => .ok (instrOf c op h ow imm, rest2)

/-- The words of an instruction: instruction word, then operand word, then immediate word (R44). -/
def encode (c : Config) (i : Instr) : List Word :=
  headWord (i.opcode c) i.head :: (i.opword.toList ++ i.imm.toList)

/-- The words of an instruction of the opcode table whose first `nbits` bits are `w`, numbered from the least significant
bit of the first word, with zero words after it up to the longest instruction. -/
def tableWords (nbits w : Nat) : List Word :=
  (List.range Literal.maxWords).map fun j => .ofNat _ ((w % 2 ^ nbits) / 2 ^ (Literal.wordBits * j))

/-- The instruction the decoder reads from a table word, under the configuration that reset holds (log 29). -/
def decodeTableWord (nbits w : Nat) : Option Instr :=
  match decode Config.atReset (tableWords nbits w) with
  | .ok (i, _) => some i
  | .error _ => none

end Sys2Proof
end

