-- ==== Sys2Proof/Machine/State.lean ====
section
/-!
DEFINITION. The machine's state as plain data (spec/10_state.md), the reasons a step can stop, and the state after reset.
-/

namespace Sys2Proof.Machine

/-- ST, the sequencer status (R18). -/
inductive Status where
  /-- `RUN`: there may be more words to decode. -/
  | run
  /-- `DONE`: the cursor has reached LEN; terminal. -/
  | done
  /-- `FAULT`: a fatal condition ended the sweep; terminal. -/
  | fault
deriving DecidableEq, Repr

/-- The faults of the block (R146). -/
inductive FaultKind where
  | cursorOutOfRange
  | truncatedInstruction
  | noCodeRegion
deriving DecidableEq, Repr

/-- The spec's own cause codes (R146, D7). -/
def FaultKind.code : FaultKind → Nat
  | .cursorOutOfRange => 1
  | .truncatedInstruction => 2
  | .noCodeRegion => 3

/-- A fault record `{kind, at, missing, len}` (R147); the spec's `at` is `pos` here. -/
structure FaultRecord where
  kind : FaultKind
  pos : Nat
  missing : Nat
  len : Nat
deriving DecidableEq, Repr

/-- A decoded-instruction record, field by field as R67; the spec's `at` is `pos` here. -/
structure Decoded where
  pos : Nat
  word : Word
  aflg0 : Flag
  aflg1 : Flag
  aflg2 : Flag
  sign : Sign
  op : OpId
  known : Bool
  mnemonic : Text
  arity : Nat
  mode0 : Mode
  mode1 : Mode
  mode2 : Mode
  k : Nat
  opword : Option Word
  regs : List RegIdx
  names : List Text
  imm : Option Word
  size : Nat
deriving DecidableEq, Repr

/-- Where the code region lies in the buffer: its byte offset, and LEN, an unsigned 16-bit word count (R10, R27, R35). -/
structure CodeView where
  off : Nat
  len : BitVec Literal.lenBits
deriving DecidableEq, Repr

/-- The buffer's bytes: (byte address, byte), addresses strictly rising, no entry equal to `Memory.unlisted`. -/
abbrev Memory := List Host.Cell

/-- What a byte address that no entry lists reads as. DESIGN CHOICE, unsafe (log 5). -/
abbrev Memory.unlisted : Byte := 0#8

/-- The canonical form of a memory, so that equal memories are equal lists. -/
abbrev Memory.wf (m : Memory) : Prop :=
  m.Pairwise (fun a b => a.1 < b.1) ∧ ∀ cell ∈ m, cell.2 ≠ Memory.unlisted

/-- The state of the block and its inputs (spec/10_state.md section 7). `cfg`, `mem` and `code` are constants and inputs
that no step writes (R23, R27, R39); `cur`, `st`, `finfo` and `out` are the sequencer's registers. -/
structure State where
  /-- The configuration, from which the two ROMs are read (R23..R26). -/
  cfg : Config
  /-- The buffer's bytes (R35). -/
  mem : Memory
  /-- The code region, or `none` when it is absent (R27, R28). -/
  code : Option CodeView
  /-- CUR, the word index of the next instruction (R17). -/
  cur : Nat
  /-- ST (R18). -/
  st : Status
  /-- FINFO, empty or one record (R19). -/
  finfo : Option FaultRecord
  /-- OUT, the records produced so far, in decode order (R20). -/
  out : List Decoded
deriving DecidableEq, Repr

/-- Why the machine stops. -/
inductive Fault where
  /-- Raised by `step` when ST = DONE: the sweep has ended well and the sequencer has no further step (R18, R82). Safe: the
  spec gives this state no successor (log 9). -/
  | sweepDone
  /-- Raised by `step` when ST = FAULT: the sweep has ended in the fault that FINFO records, and FAULT has no further step
  (R18, R82, R155). Safe: the spec gives this state no successor (log 9). -/
  | sweepFaulted
deriving DecidableEq, Repr

/-- Why the model gives no meaning. -/
inductive Refusal where
  /-- For an instruction with no meaning yet; no arm of `exec` answers it. Safe. -/
  | notModelled (mnemonic : String)
  /-- Raised by `step` under a configuration that fails a check of R92, naming the first one it fails: a model refuses to
  run under it (R92, D20). Safe (log 10). -/
  | illFormedConfig (check : ConfigCheck)
deriving DecidableEq, Repr

/-- The reset operation: CUR, ST, FINFO and OUT take their reset values, and the ROMs, IMM_COPY_ID and the code region are
left alone (R159). -/
def State.resetFrom (s : State) : State := { s with cur := 0, st := .run, finfo := none, out := [] }

/-- The machine right after reset: the sequencer's reset values (R159), the configuration the model names (log 2, log 3),
and no code region supplied yet (log 8). -/
def State.reset : State where
  cfg := Config.atReset
  mem := []
  code := none
  cur := 0
  st := .run
  finfo := none
  out := []

end Sys2Proof.Machine
end

