-- ==== Sys2Proof/Machine/Ops.lean ====
section
/-!
DEFINITION. The named operations over the state: reading a code word, taking a fault, and the one operation every
instruction's meaning is a line over. The block has no memory write (spec/20_memory.md R31); the byte writes here are the
environment's, for supplying a region (70_reset_and_hazards.md R161).
-/

namespace Sys2Proof.Machine

/-- The byte at an address. -/
def Memory.read (m : Memory) (a : Nat) : Byte :=
  match m with
  | [] => Memory.unlisted
  | (x, y) :: rest => if x = a then y else Memory.read rest a

/-- The memory with one byte written, in canonical form again. -/
def Memory.write (m : Memory) (a : Nat) (b : Byte) : Memory :=
  match m with
  | [] => if b = Memory.unlisted then [] else [(a, b)]
  | (x, y) :: rest =>
    if x < a then (x, y) :: Memory.write rest a b
    else if x = a then (if b = Memory.unlisted then rest else (a, b) :: rest)
    else if b = Memory.unlisted then (x, y) :: rest
    else (a, b) :: (x, y) :: rest

/-- One 16-bit word from two bytes, the first at the lower address (R35). -/
def wordOfBytes (o : ByteOrder) (first second : Byte) : Word :=
  match o with
  | .little => first.setWidth Literal.wordBits ||| (second.setWidth Literal.wordBits <<< 8)
  | .big => second.setWidth Literal.wordBits ||| (first.setWidth Literal.wordBits <<< 8)

/-- The two bytes of a word, the one at the lower address first: `wordOfBytes` undone. -/
def bytesOfWord (o : ByteOrder) (w : Word) : Byte × Byte :=
  match o with
  | .little => (w.extractLsb' 0 8, w.extractLsb' 8 8)
  | .big => (w.extractLsb' 8 8, w.extractLsb' 0 8)

/-- The word whose first byte is at byte address `a`, at any alignment (R35, R36). -/
def Memory.readWord (m : Memory) (o : ByteOrder) (a : Nat) : Word :=
  wordOfBytes o (m.read a) (m.read (a + 1))

/-- The memory with the word at byte address `a` replaced. -/
def Memory.writeWord (m : Memory) (o : ByteOrder) (a : Nat) (w : Word) : Memory :=
  (m.write a (bytesOfWord o w).1).write (a + 1) (bytesOfWord o w).2

/-- The memory with consecutive words written from byte address `a` on. -/
def Memory.writeWords (m : Memory) (o : ByteOrder) (a : Nat) (ws : List Word) : Memory :=
  match ws with
  | [] => m
  | w :: rest => Memory.writeWords (m.writeWord o a w) o (a + 2) rest

/-- LEN: the region's length in words, 0 when the region is absent (R27, R147). -/
def State.len (s : State) : Nat :=
  match s.code with
  | some v => v.len.toNat
  | none => 0

/-- `CODE[i]` of a present region: word index `i` reaches the word at byte offset `off + 2i` directly (R35, R38). -/
def codeAt (c : Config) (m : Memory) (v : CodeView) (i : Nat) : Word := m.readWord c.byteOrder (v.off + 2 * i)

/-- The block's one access: the word at index `i`, and no read at all when the region is absent or `i ≥ LEN` (R31, R65). -/
def State.codeWord? (s : State) (i : Nat) : Option Word :=
  match s.code with
  | some v => if i < v.len.toNat then some (codeAt s.cfg s.mem v i) else none
  | none => none

/-- The code words an instruction at the cursor can take: those at CUR, CUR+1 and CUR+2 that lie in the region (R31). A
read has no side effect (R32), so a word the instruction does not take is as if not read (log 14). -/
def State.fetchWindow (s : State) : List Word :=
  ((List.range Literal.maxWords).map fun j => s.codeWord? (s.cur + j)).filterMap id

/-- Supply a code region: its words placed from byte offset `off` on, LEN their number (R35, R161). The environment does
this before reset, never the block. -/
def State.loadRegion (s : State) (off : Nat) (ws : List Word) : State :=
  { s with mem := s.mem.writeWords s.cfg.byteOrder off ws, code := some ⟨off, .ofNat _ ws.length⟩ }

/-- Taking a fault, the block's one exception entry: ST becomes FAULT and FINFO the record; CUR and OUT stay as they were,
and there is no vector, handler, saved pc or mode change (R154). There is no return from it: FAULT is terminal and
only reset leaves it (R155, `State.resetFrom`). -/
def State.takeFault (s : State) (f : FaultRecord) : State := { s with st := .fault, finfo := some f }

/-- The fault record of a DEC call at a cursor at or beyond LEN (R148). -/
def cursorFault (pos len : Nat) : FaultRecord := ⟨.cursorOutOfRange, pos, pos, len⟩

/-- The fault record of an instruction at `pos` whose trailing word at index `missing` cannot be read (R63, R149). -/
def truncatedFault (pos missing len : Nat) : FaultRecord := ⟨.truncatedInstruction, pos, missing, len⟩

/-- The fault record of a step with no code region (R150). -/
def noRegionFault : FaultRecord := ⟨.noCodeRegion, 0, 0, 0⟩

/-- The decoded record of R67: raw fields, the two table lookups, the modes, k, the unpacked indices and their names. -/
def recordOf (c : Config) (pos : Nat) (op : OpId) (h : Head) (ow imm : Option Word) : Decoded :=
  let n := c.arity op
  let k := regCount n h
  let regs := match ow with
    | some o => unpack c.nibbleOrder o k
    | none => []
  { pos := pos, word := headWord op h
    aflg0 := h.aflg0, aflg1 := h.aflg1, aflg2 := h.aflg2, sign := h.sign, op := op
    known := c.populated op, mnemonic := c.mnem op, arity := n
    mode0 := modeAt n 0 h.aflg0, mode1 := modeAt n 1 h.aflg1, mode2 := modeAt n 2 h.aflg2
    k := k, opword := ow, regs := regs, names := regs.map c.nameOf
    imm := imm, size := sizeOfShape k (c.isImmCopy op) }

/-- Check one trailing word: when needed it must lie below LEN and be there (R63, R64); the next index with it. -/
def trailingWord (needed : Bool) (p len : Nat) (w : Option Word) : Option (Option Word × Nat) :=
  if needed then
    match w with
    | some x => if p < len then some (some x, p + 1) else none
    | none => none
  else some (none, p)

/-- DEC's steps 2 to 7 on an instruction whose words are already apart, at word index `pos` of a region of `len` words: the
cursor check, the operand word when k ≥ 1, the immediate word for IMM_COPY_ID, in that order, each failing check
reported by its fault (R58, R60..R67, R153). An instruction that lacks a word it needs is truncated there (log 11). -/
def decodeFields (c : Config) (len pos : Nat) (op : OpId) (h : Head) (ow imm : Option Word) :
    Except FaultRecord Decoded :=
  if len ≤ pos then .error (cursorFault pos len)
  else
    match trailingWord (decide (1 ≤ regCount (c.arity op) h)) (pos + 1) len ow with
    | none => .error (truncatedFault pos (pos + 1) len)
    | some (ow', p) =>
      match trailingWord (c.isImmCopy op) p len imm with
      | none => .error (truncatedFault pos p len)
      | some (imm', _) => .ok (recordOf c pos op h ow' imm')

/-- What SEQ does with DEC's answer: append the record and advance CUR by its size, or take the fault (R82). -/
def State.commit (s : State) (r : Except FaultRecord Decoded) : State :=
  match r with
  | .ok d => { s with out := s.out ++ [d], cur := s.cur + d.size }
  | .error f => s.takeFault f

/-- The shared operation behind every instruction's meaning: decode it at the cursor as an instruction of opcode `op` and
commit the answer; with no code region, take NoCodeRegion first (R71, R82, R153). -/
def emitAs (op : OpId) (h : Head) (ow imm : Option Word) (s : State) : Host.Outcome State Fault Refusal :=
  match s.code with
  | none => .next (s.takeFault noRegionFault)
  | some v => .next (s.commit (decodeFields s.cfg v.len.toNat s.cur op h ow imm))

end Sys2Proof.Machine
end

