-- ==== Sys2Proof/Machine/ErrorClass.lean ====
section
/-!
DEFINITION. The sentinel and the ERROR class (spec/43_opcode_catalogue.md section 6): one word, no operands, no fault (R144).
-/

namespace Sys2Proof.Machine

/-- The end-of-table sentinel, id `SENTINEL_ID`: one word (R143, R144). -/
def execSentinel (h : Head) (s : State) : Host.Outcome State Fault Refusal :=
  emitAs (.ofNat _ s.cfg.sentinelId) h none none s

/-- Any other unpopulated id, carried in `op`: one word (R144). -/
def execErrorClass (op : OpId) (h : Head) (s : State) : Host.Outcome State Fault Refusal :=
  emitAs op h none none s

end Sys2Proof.Machine
end

