-- ==== Sys2Proof/Machine/HighBlock.lean ====
section
/-!
DEFINITION. The high block (spec/43_opcode_catalogue.md section 4): four ids of arity 2, 66 among them.
-/

namespace Sys2Proof.Machine

/-- Opcode H_a, the first high-block id other than 66 (R139): decoded with the arity the table gives its id. -/
def execHa (h : Head) (ow imm : Option Word) (s : State) : Host.Outcome State Fault Refusal :=
  emitAs (.ofNat _ s.cfg.highA) h ow imm s

/-- Opcode H_b, the second high-block id other than 66 (R140): decoded with the arity the table gives its id. -/
def execHb (h : Head) (ow imm : Option Word) (s : State) : Host.Outcome State Fault Refusal :=
  emitAs (.ofNat _ s.cfg.highB) h ow imm s

/-- Opcode 66, the high-block id the source gives (R138): decoded with the arity the table gives its id. -/
def execOp66 (h : Head) (ow imm : Option Word) (s : State) : Host.Outcome State Fault Refusal :=
  emitAs (.ofNat _ Literal.knownHighId) h ow imm s

/-- Opcode H_c, the third high-block id other than 66 (R141): decoded with the arity the table gives its id. -/
def execHc (h : Head) (ow imm : Option Word) (s : State) : Host.Outcome State Fault Refusal :=
  emitAs (.ofNat _ s.cfg.highC) h ow imm s

end Sys2Proof.Machine
end

