-- ==== Sys2Proof/Machine/ImmCopy.lean ====
section
/-!
DEFINITION. The immediate-copy opcode (spec/43_opcode_catalogue.md section 5), the only one with an immediate word.
-/

namespace Sys2Proof.Machine

/-- The immediate-copy opcode, id `IMM_COPY_ID`; it overlays the populated arity-2 row of that id (R142, log 12): decoded with the arity the table gives its id. -/
def execImmCopy (h : Head) (ow imm : Option Word) (s : State) : Host.Outcome State Fault Refusal :=
  emitAs (.ofNat _ s.cfg.immCopyId) h ow imm s

end Sys2Proof.Machine
end

