-- ==== Sys2Proof/Machine/LowBlock.lean ====
section
/-!
DEFINITION. The low block, ids 0..38 (spec/43_opcode_catalogue.md section 2): each id is decoded as R71 says, with its own
arity, and commits its record or takes TruncatedInstruction. One meaning per row, one line over the shared operation.
-/

namespace Sys2Proof.Machine

/-- Opcode 0, `MNEMONIC_0` (R95): decoded with the arity the table gives its id. -/
def execOp0 (h : Head) (ow imm : Option Word) (s : State) : Host.Outcome State Fault Refusal :=
  emitAs 0 h ow imm s

/-- Opcode 1, `MNEMONIC_1` (R96): decoded with the arity the table gives its id. -/
def execOp1 (h : Head) (ow imm : Option Word) (s : State) : Host.Outcome State Fault Refusal :=
  emitAs 1 h ow imm s

/-- Opcode 2, `MNEMONIC_2` (R97): decoded with the arity the table gives its id. -/
def execOp2 (h : Head) (ow imm : Option Word) (s : State) : Host.Outcome State Fault Refusal :=
  emitAs 2 h ow imm s

/-- Opcode 3, `MNEMONIC_3` (R98): decoded with the arity the table gives its id. -/
def execOp3 (h : Head) (ow imm : Option Word) (s : State) : Host.Outcome State Fault Refusal :=
  emitAs 3 h ow imm s

/-- Opcode 4, `MNEMONIC_4` (R99): decoded with the arity the table gives its id. -/
def execOp4 (h : Head) (ow imm : Option Word) (s : State) : Host.Outcome State Fault Refusal :=
  emitAs 4 h ow imm s

/-- Opcode 5, `MNEMONIC_5` (R100): decoded with the arity the table gives its id. -/
def execOp5 (h : Head) (ow imm : Option Word) (s : State) : Host.Outcome State Fault Refusal :=
  emitAs 5 h ow imm s

/-- Opcode 6, `MNEMONIC_6` (R101): decoded with the arity the table gives its id. -/
def execOp6 (h : Head) (ow imm : Option Word) (s : State) : Host.Outcome State Fault Refusal :=
  emitAs 6 h ow imm s

/-- Opcode 7, `MNEMONIC_7` (R102): decoded with the arity the table gives its id. -/
def execOp7 (h : Head) (ow imm : Option Word) (s : State) : Host.Outcome State Fault Refusal :=
  emitAs 7 h ow imm s

/-- Opcode 8, `MNEMONIC_8` (R103): decoded with the arity the table gives its id. -/
def execOp8 (h : Head) (ow imm : Option Word) (s : State) : Host.Outcome State Fault Refusal :=
  emitAs 8 h ow imm s

/-- Opcode 9, `MNEMONIC_9` (R104): decoded with the arity the table gives its id. -/
def execOp9 (h : Head) (ow imm : Option Word) (s : State) : Host.Outcome State Fault Refusal :=
  emitAs 9 h ow imm s

/-- Opcode 10, `MNEMONIC_10` (R105): decoded with the arity the table gives its id. -/
def execOp10 (h : Head) (ow imm : Option Word) (s : State) : Host.Outcome State Fault Refusal :=
  emitAs 10 h ow imm s

/-- Opcode 11, `MNEMONIC_11` (R106): decoded with the arity the table gives its id. -/
def execOp11 (h : Head) (ow imm : Option Word) (s : State) : Host.Outcome State Fault Refusal :=
  emitAs 11 h ow imm s

/-- Opcode 12, `MNEMONIC_12` (R107): decoded with the arity the table gives its id. -/
def execOp12 (h : Head) (ow imm : Option Word) (s : State) : Host.Outcome State Fault Refusal :=
  emitAs 12 h ow imm s

/-- Opcode 13, `MNEMONIC_13` (R108): decoded with the arity the table gives its id. -/
def execOp13 (h : Head) (ow imm : Option Word) (s : State) : Host.Outcome State Fault Refusal :=
  emitAs 13 h ow imm s

/-- Opcode 14, `MNEMONIC_14` (R109): decoded with the arity the table gives its id. -/
def execOp14 (h : Head) (ow imm : Option Word) (s : State) : Host.Outcome State Fault Refusal :=
  emitAs 14 h ow imm s

/-- Opcode 15, `MNEMONIC_15` (R110): decoded with the arity the table gives its id. -/
def execOp15 (h : Head) (ow imm : Option Word) (s : State) : Host.Outcome State Fault Refusal :=
  emitAs 15 h ow imm s

/-- Opcode 16, `MNEMONIC_16` (R111): decoded with the arity the table gives its id. -/
def execOp16 (h : Head) (ow imm : Option Word) (s : State) : Host.Outcome State Fault Refusal :=
  emitAs 16 h ow imm s

/-- Opcode 17, `MNEMONIC_17` (R112): decoded with the arity the table gives its id. -/
def execOp17 (h : Head) (ow imm : Option Word) (s : State) : Host.Outcome State Fault Refusal :=
  emitAs 17 h ow imm s

/-- Opcode 18, `MNEMONIC_18` (R113): decoded with the arity the table gives its id. -/
def execOp18 (h : Head) (ow imm : Option Word) (s : State) : Host.Outcome State Fault Refusal :=
  emitAs 18 h ow imm s

/-- Opcode 19, `MNEMONIC_19` (R114): decoded with the arity the table gives its id. -/
def execOp19 (h : Head) (ow imm : Option Word) (s : State) : Host.Outcome State Fault Refusal :=
  emitAs 19 h ow imm s

/-- Opcode 20, `MNEMONIC_20` (R115): decoded with the arity the table gives its id. -/
def execOp20 (h : Head) (ow imm : Option Word) (s : State) : Host.Outcome State Fault Refusal :=
  emitAs 20 h ow imm s

/-- Opcode 21, `MNEMONIC_21` (R116): decoded with the arity the table gives its id. -/
def execOp21 (h : Head) (ow imm : Option Word) (s : State) : Host.Outcome State Fault Refusal :=
  emitAs 21 h ow imm s

/-- Opcode 22, `MNEMONIC_22` (R117): decoded with the arity the table gives its id. -/
def execOp22 (h : Head) (ow imm : Option Word) (s : State) : Host.Outcome State Fault Refusal :=
  emitAs 22 h ow imm s

/-- Opcode 23, `MNEMONIC_23` (R118): decoded with the arity the table gives its id. -/
def execOp23 (h : Head) (ow imm : Option Word) (s : State) : Host.Outcome State Fault Refusal :=
  emitAs 23 h ow imm s

/-- Opcode 24, `MNEMONIC_24` (R119): decoded with the arity the table gives its id. -/
def execOp24 (h : Head) (ow imm : Option Word) (s : State) : Host.Outcome State Fault Refusal :=
  emitAs 24 h ow imm s

/-- Opcode 25, `MNEMONIC_25` (R120): decoded with the arity the table gives its id. -/
def execOp25 (h : Head) (ow imm : Option Word) (s : State) : Host.Outcome State Fault Refusal :=
  emitAs 25 h ow imm s

/-- Opcode 26, `MNEMONIC_26` (R121): decoded with the arity the table gives its id. -/
def execOp26 (h : Head) (ow imm : Option Word) (s : State) : Host.Outcome State Fault Refusal :=
  emitAs 26 h ow imm s

/-- Opcode 27, `MNEMONIC_27` (R122): decoded with the arity the table gives its id. -/
def execOp27 (h : Head) (ow imm : Option Word) (s : State) : Host.Outcome State Fault Refusal :=
  emitAs 27 h ow imm s

/-- Opcode 28, `MNEMONIC_28` (R123): decoded with the arity the table gives its id. -/
def execOp28 (h : Head) (ow imm : Option Word) (s : State) : Host.Outcome State Fault Refusal :=
  emitAs 28 h ow imm s

/-- Opcode 29, `MNEMONIC_29` (R124): decoded with the arity the table gives its id. -/
def execOp29 (h : Head) (ow imm : Option Word) (s : State) : Host.Outcome State Fault Refusal :=
  emitAs 29 h ow imm s

/-- Opcode 30, `MNEMONIC_30` (R125): decoded with the arity the table gives its id. -/
def execOp30 (h : Head) (ow imm : Option Word) (s : State) : Host.Outcome State Fault Refusal :=
  emitAs 30 h ow imm s

/-- Opcode 31, `MNEMONIC_31` (R126): decoded with the arity the table gives its id. -/
def execOp31 (h : Head) (ow imm : Option Word) (s : State) : Host.Outcome State Fault Refusal :=
  emitAs 31 h ow imm s

/-- Opcode 32, `MNEMONIC_32` (R127): decoded with the arity the table gives its id. -/
def execOp32 (h : Head) (ow imm : Option Word) (s : State) : Host.Outcome State Fault Refusal :=
  emitAs 32 h ow imm s

/-- Opcode 33, `MNEMONIC_33` (R128): decoded with the arity the table gives its id. -/
def execOp33 (h : Head) (ow imm : Option Word) (s : State) : Host.Outcome State Fault Refusal :=
  emitAs 33 h ow imm s

/-- Opcode 34, `MNEMONIC_34` (R129): decoded with the arity the table gives its id. -/
def execOp34 (h : Head) (ow imm : Option Word) (s : State) : Host.Outcome State Fault Refusal :=
  emitAs 34 h ow imm s

/-- Opcode 35, `MNEMONIC_35` (R130): decoded with the arity the table gives its id. -/
def execOp35 (h : Head) (ow imm : Option Word) (s : State) : Host.Outcome State Fault Refusal :=
  emitAs 35 h ow imm s

/-- Opcode 36, `MNEMONIC_36` (R131): decoded with the arity the table gives its id. -/
def execOp36 (h : Head) (ow imm : Option Word) (s : State) : Host.Outcome State Fault Refusal :=
  emitAs 36 h ow imm s

/-- Opcode 37, `MNEMONIC_37` (R132): decoded with the arity the table gives its id. -/
def execOp37 (h : Head) (ow imm : Option Word) (s : State) : Host.Outcome State Fault Refusal :=
  emitAs 37 h ow imm s

/-- Opcode 38, `MNEMONIC_38` (R133): decoded with the arity the table gives its id. -/
def execOp38 (h : Head) (ow imm : Option Word) (s : State) : Host.Outcome State Fault Refusal :=
  emitAs 38 h ow imm s

end Sys2Proof.Machine
end

