-- ==== Sys2Proof/Machine/Singletons.lean ====
section
/-!
DEFINITION. The two singletons S1 and S2 (spec/43_opcode_catalogue.md section 3), populated entries with their own arities (D5).
-/

namespace Sys2Proof.Machine

/-- Opcode S1, the first singleton (R135): decoded with the arity the table gives its id. -/
def execS1 (h : Head) (ow imm : Option Word) (s : State) : Host.Outcome State Fault Refusal :=
  emitAs (.ofNat _ s.cfg.s1) h ow imm s

/-- Opcode S2, the second singleton (R136): decoded with the arity the table gives its id. -/
def execS2 (h : Head) (ow imm : Option Word) (s : State) : Host.Outcome State Fault Refusal :=
  emitAs (.ofNat _ s.cfg.s2) h ow imm s

end Sys2Proof.Machine
end

