-- ==== Sys2Proof/Machine/Dispatch.lean ====
section
/-!
DEFINITION. One arm per row of the opcode table, each one direct call of the row's meaning.
-/

namespace Sys2Proof.Machine

/-- What the block does with a decoded instruction: record it and advance, or take the fault of R65. -/
def exec (i : Instr) (s : State) : Host.Outcome State Fault Refusal :=
  match i with
  | .op0 h ow imm => Sys2Proof.Machine.execOp0 h ow imm s
  | .op1 h ow imm => Sys2Proof.Machine.execOp1 h ow imm s
  | .op2 h ow imm => Sys2Proof.Machine.execOp2 h ow imm s
  | .op3 h ow imm => Sys2Proof.Machine.execOp3 h ow imm s
  | .op4 h ow imm => Sys2Proof.Machine.execOp4 h ow imm s
  | .op5 h ow imm => Sys2Proof.Machine.execOp5 h ow imm s
  | .op6 h ow imm => Sys2Proof.Machine.execOp6 h ow imm s
  | .op7 h ow imm => Sys2Proof.Machine.execOp7 h ow imm s
  | .op8 h ow imm => Sys2Proof.Machine.execOp8 h ow imm s
  | .op9 h ow imm => Sys2Proof.Machine.execOp9 h ow imm s
  | .op10 h ow imm => Sys2Proof.Machine.execOp10 h ow imm s
  | .op11 h ow imm => Sys2Proof.Machine.execOp11 h ow imm s
  | .op12 h ow imm => Sys2Proof.Machine.execOp12 h ow imm s
  | .op13 h ow imm => Sys2Proof.Machine.execOp13 h ow imm s
  | .op14 h ow imm => Sys2Proof.Machine.execOp14 h ow imm s
  | .op15 h ow imm => Sys2Proof.Machine.execOp15 h ow imm s
  | .op16 h ow imm => Sys2Proof.Machine.execOp16 h ow imm s
  | .op17 h ow imm => Sys2Proof.Machine.execOp17 h ow imm s
  | .op18 h ow imm => Sys2Proof.Machine.execOp18 h ow imm s
  | .op19 h ow imm => Sys2Proof.Machine.execOp19 h ow imm s
  | .op20 h ow imm => Sys2Proof.Machine.execOp20 h ow imm s
  | .op21 h ow imm => Sys2Proof.Machine.execOp21 h ow imm s
  | .op22 h ow imm => Sys2Proof.Machine.execOp22 h ow imm s
  | .op23 h ow imm => Sys2Proof.Machine.execOp23 h ow imm s
  | .op24 h ow imm => Sys2Proof.Machine.execOp24 h ow imm s
  | .op25 h ow imm => Sys2Proof.Machine.execOp25 h ow imm s
  | .op26 h ow imm => Sys2Proof.Machine.execOp26 h ow imm s
  | .op27 h ow imm => Sys2Proof.Machine.execOp27 h ow imm s
  | .op28 h ow imm => Sys2Proof.Machine.execOp28 h ow imm s
  | .op29 h ow imm => Sys2Proof.Machine.execOp29 h ow imm s
  | .op30 h ow imm => Sys2Proof.Machine.execOp30 h ow imm s
  | .op31 h ow imm => Sys2Proof.Machine.execOp31 h ow imm s
  | .op32 h ow imm => Sys2Proof.Machine.execOp32 h ow imm s
  | .op33 h ow imm => Sys2Proof.Machine.execOp33 h ow imm s
  | .op34 h ow imm => Sys2Proof.Machine.execOp34 h ow imm s
  | .op35 h ow imm => Sys2Proof.Machine.execOp35 h ow imm s
  | .op36 h ow imm => Sys2Proof.Machine.execOp36 h ow imm s
  | .op37 h ow imm => Sys2Proof.Machine.execOp37 h ow imm s
  | .op38 h ow imm => Sys2Proof.Machine.execOp38 h ow imm s
  | .s1 h ow imm => Sys2Proof.Machine.execS1 h ow imm s
  | .s2 h ow imm => Sys2Proof.Machine.execS2 h ow imm s
  | .ha h ow imm => Sys2Proof.Machine.execHa h ow imm s
  | .hb h ow imm => Sys2Proof.Machine.execHb h ow imm s
  | .op66 h ow imm => Sys2Proof.Machine.execOp66 h ow imm s
  | .hc h ow imm => Sys2Proof.Machine.execHc h ow imm s
  | .immCopy h ow imm => Sys2Proof.Machine.execImmCopy h ow imm s
  | .sentinel h => Sys2Proof.Machine.execSentinel h s
  | .errorClass op h => Sys2Proof.Machine.execErrorClass op h s

end Sys2Proof.Machine
end

