-- ==== Sys2Proof/Machine/Sequencer.lean ====
section
/-!
DEFINITION. The sweep sequencer's step (spec/42_sequencer.md R82): the order of its checks, the fetch, and the placing of
an instruction where the next step fetches.
-/

namespace Sys2Proof.Machine

/-- The fault record of a decode rejection at the cursor (R148, R149). -/
def rejectFault (e : DecodeError) (pos len : Nat) : FaultRecord :=
  match e with
  | .noWord => cursorFault pos len
  | .truncated j => truncatedFault pos (pos + j) len

/-- The instruction at the cursor: decode the words fetched there (R58..R64, R82). -/
def State.fetch (s : State) : Except DecodeError Instr :=
  match decode s.cfg s.fetchWindow with
  | .ok (i, _) => .ok i
  | .error e => .error e

/-- SEQ's step while ST = RUN, the configuration being well formed: an absent region first, then the end of the region,
then the instruction at the cursor (R82, R153). -/
def runStep (s : State) : Host.Outcome State Fault Refusal :=
  match s.code with
  | none => .next (s.takeFault noRegionFault)
  | some v =>
    if s.cur = v.len.toNat then .next { s with st := .done }
    else
      match s.fetch with
      | .ok i => exec i s
      | .error e => .next (s.takeFault (rejectFault e s.cur v.len.toNat))

/-- One step of the sequencer: refused under an ill-formed configuration (R92, D20); no step when ST is DONE or FAULT
(R82). -/
def sweepStep (s : State) : Host.Outcome State Fault Refusal :=
  match s.cfg.failedCheck with
  | some k => .refused (.illFormedConfig k)
  | none =>
    match s.st with
    | .done => .fault .sweepDone
    | .fault => .fault .sweepFaulted
    | .run => runStep s

/-- Where the cursor stands when an instruction is placed for the next fetch: where it is, unless the region could not reach
the longest instruction's last word from there (log 18). -/
def placeCursor (s : State) : Nat := if s.cur + Literal.maxWords ≤ Literal.maxLen then s.cur else 0

/-- Place an instruction's words at the cursor of a running sweep, in a region long enough for it (log 8, log 18). -/
def placeWords (s : State) (ws : List Word) : State :=
  let c := placeCursor s
  let off := match s.code with
    | some v => v.off
    | none => 0
  let len := max s.len (c + ws.length)
  { s with
    mem := s.mem.writeWords s.cfg.byteOrder (off + 2 * c) ws
    code := some ⟨off, .ofNat _ len⟩
    cur := c
    st := .run }

end Sys2Proof.Machine
end

