-- ==== Sys2Proof/Machine/Step.lean ====
section
/-!
DEFINITION. The machine's step, and an instruction placed where the next step fetches it.
-/

namespace Sys2Proof.Machine

/-- One step of the block: SEQ_STEP (spec/42_sequencer.md R82). -/
def step (s : State) : Host.Outcome State Fault Refusal := sweepStep s

/-- The state with an instruction of the opcode table, its first `nbits` bits `w` and zeros above, in the code region at the
cursor, ST = RUN, and a region that reaches its last word, so that the very next step runs it (log 8, log 18). -/
def State.withFetchWord (s : State) (nbits w : Nat) : State := placeWords s (tableWords nbits w)

end Sys2Proof.Machine
end

