-- ==== Sys2Proof/Machine/Dec.lean ====
section
/-!
DEFINITION. The decode unit DEC as a unit of its own (spec/40_decode.md R57, R71): combinational, a pure total function of the
code region, its length, a cursor and the configuration. It is written from the pseudocode of R71, reading CODE itself,
and not through the instruction syntax, with the one split of Flags.lean; that the sequencer's step through the instructions agrees with it is a statement.
-/

namespace Sys2Proof.Machine

/-- The mask of R71's `aflg[i] & 2`: the flag bit that selects the mode (R47). -/
def modeMask : Flag := .twoPow _ Literal.modeBit

/-- The mode R71 gives position `i`: `(i < n) ? ((aflg[i] & 2) = 0 ? Reg : NonReg) : None`. -/
def decMode (n i : Nat) (aflg : Flag) : Mode :=
  if i < n then (if aflg &&& modeMask = 0 then .reg else .nonReg) else .none

/-- `k` of R71: 1 for each register-mode position. -/
def decCount (m0 m1 m2 : Mode) : Nat :=
  (if m0 = .reg then 1 else 0) + (if m1 = .reg then 1 else 0) + (if m2 = .reg then 1 else 0)

/-- Steps 6 and 7 of R71, from the next index `p`, the operand word and the indices on: the immediate word, then the
record. -/
def decFinish (c : Config) (m : Memory) (v : CodeView) (pos p : Nat) (ow : Option Word) (regs : List RegIdx) :
    Except FaultRecord (Decoded × Nat) :=
  let len := v.len.toNat
  let w := codeAt c m v pos
  let op := opcodeField w
  let h := headField w
  let n := c.arity op
  let mode0 := decMode n 0 h.aflg0
  let mode1 := decMode n 1 h.aflg1
  let mode2 := decMode n 2 h.aflg2
  let finish (imm : Option Word) (p : Nat) : Decoded × Nat :=
    ({ pos := pos, word := w
       aflg0 := h.aflg0, aflg1 := h.aflg1, aflg2 := h.aflg2, sign := h.sign, op := op
       known := c.populated op, mnemonic := c.mnem op, arity := n
       mode0 := mode0, mode1 := mode1, mode2 := mode2, k := decCount mode0 mode1 mode2
       opword := ow, regs := regs, names := regs.map c.nameOf, imm := imm, size := p - pos }, p - pos)
  if op.toNat = c.immCopyId then
    if p ≥ len then .error (truncatedFault pos p len)
    else .ok (finish (some (codeAt c m v p)) (p + 1))
  else .ok (finish none p)

/-- DEC(CODE, LEN, c): the record and the size, or a fault record (R57, R71). -/
def dec (c : Config) (m : Memory) (v : CodeView) (pos : Nat) : Except FaultRecord (Decoded × Nat) :=
  let len := v.len.toNat
  if pos ≥ len then .error (cursorFault pos len)
  else
    let w := codeAt c m v pos
    let h := headField w
    let n := c.arity (opcodeField w)
    let k := decCount (decMode n 0 h.aflg0) (decMode n 1 h.aflg1) (decMode n 2 h.aflg2)
    if k ≥ 1 then
      if pos + 1 ≥ len then .error (truncatedFault pos (pos + 1) len)
      else
        let ow := codeAt c m v (pos + 1)
        decFinish c m v pos (pos + 2) (some ow) (unpack c.nibbleOrder ow k)
    else decFinish c m v pos (pos + 1) none []

end Sys2Proof.Machine
end

