-- ==== Sys2Proof/Safety.lean ====
section
/-!
DEFINITION. What counts as a good run of the sweep, in the terms the statements use: how records tile the region, what a
recorded fault must be justified by, and the invariant of the sweep (spec/42_sequencer.md R83, R85, R86; 60_exceptions.md
R154, R155).
-/

namespace Sys2Proof.Machine

/-- Records tile the word indices from `a` up to but not including `b`: the first starts at `a`, each later one where the
one before it ends, and the last ends at `b` (R85). -/
def Tiles (a : Nat) (records : List Decoded) (b : Nat) : Prop :=
  match records with
  | [] => a = b
  | d :: rest => d.pos = a ∧ Tiles (a + d.size) rest b

/-- A word index belongs to an instruction's record, as its instruction, operand or immediate word (R85). -/
def Decoded.covers (d : Decoded) (a : Nat) : Prop := d.pos ≤ a ∧ a < d.pos + d.size

/-- The fault a sweep can have recorded: NoCodeRegion when the region is absent, otherwise the TruncatedInstruction that
DEC raises at the cursor, with LEN as the missing index (R86, R149, R150). -/
def FaultJustified (s : State) (f : FaultRecord) : Prop :=
  match s.code with
  | none => f = noRegionFault
  | some v => dec s.cfg s.mem v s.cur = .error f ∧ f = truncatedFault s.cur v.len.toNat v.len.toNat

/-- The invariant of the sweep. -/
structure State.Inv (s : State) : Prop where
  /-- CUR is in 0..LEN (R17, R83). -/
  curInRange : s.cur ≤ s.len
  /-- The records tile the words before CUR (R85, R86). -/
  tiled : Tiles 0 s.out s.cur
  /-- Each record is what DEC answers at its own place (R67, R82). -/
  decoded : ∀ v, s.code = some v → ∀ d ∈ s.out, dec s.cfg s.mem v d.pos = .ok (d, d.size)
  /-- With no region nothing is decoded (R150). -/
  absent : s.code = none → s.out = []
  /-- ST = DONE only at the end of a present region (R18). -/
  doneAtEnd : s.st = .done → s.code.isSome = true ∧ s.cur = s.len
  /-- FINFO holds a record exactly when ST = FAULT (R19). -/
  faultRecorded : s.finfo.isSome = true ↔ s.st = .fault
  /-- A recorded fault is justified (R86, R150). -/
  faultJustified : ∀ f, s.finfo = some f → FaultJustified s f

/-- A sweep that ended well: DONE, not FAULT (R155). -/
def State.Swept (s : State) : Prop := s.st = .done ∧ s.finfo = none

end Sys2Proof.Machine
end

