-- ==== Sys2Proof/Reference.lean ====
section
/-!
DEFINITION. What the statements compare the model with: the rules of the spec written a second time, from the rules' own
tables and pseudocode and not through the model's operations. Only Obligations.lean uses this file.
-/

namespace Sys2Proof.Reference

open Sys2Proof.Machine

/-- "flag values 0 and 1 select register mode, and flag values 2 and 3 select non-register mode" (R47). -/
def isRegFlag (f : Flag) : Bool := f == 0#2 || f == 1#2

/-- The mode of position `i` under arity `n` (R61). -/
def mode (n i : Nat) (f : Flag) : Mode :=
  if n ≤ i then .none else if isRegFlag f then .reg else .nonReg

/-- How many of the positions below `n` are in register mode (R62). -/
def count (n : Nat) (h : Head) : Nat :=
  (if 0 < n ∧ isRegFlag h.aflg0 = true then 1 else 0) + (if 1 < n ∧ isRegFlag h.aflg1 = true then 1 else 0) +
    (if 2 < n ∧ isRegFlag h.aflg2 = true then 1 else 0)

/-- The size of R44's table: I, I O, I M, I O M. -/
def size (k : Nat) (isImm : Bool) : Nat :=
  match k, isImm with
  | 0, false => 1
  | 0, true => 2
  | _ + 1, false => 2
  | _ + 1, true => 3

/-- The layouts of R75, R76 and R77, in both nibble orders. -/
def indices (o : NibbleOrder) (k : Nat) (ow : Word) : List RegIdx :=
  match k, o with
  | 1, _ => [ow.extractLsb' 4 4]
  | 2, .msbFirst => [ow.extractLsb' 8 4, ow.extractLsb' 4 4]
  | 2, .lsbFirst => [ow.extractLsb' 4 4, ow.extractLsb' 8 4]
  | 3, .msbFirst => [ow.extractLsb' 12 4, ow.extractLsb' 8 4, ow.extractLsb' 4 4]
  | 3, .lsbFirst => [ow.extractLsb' 4 4, ow.extractLsb' 8 4, ow.extractLsb' 12 4]
  | _, _ => []

/-- The register namer's sixteen rows (R79). -/
def name (c : Config) (r : RegIdx) : Text :=
  match r.toNat with
  | 1 => c.regNames[0]
  | 2 => c.regNames[1]
  | 3 => c.regNames[2]
  | 4 => c.regNames[3]
  | 5 => c.regNames[4]
  | 6 => c.regNames[5]
  | _ => c.nilName

/-- The instruction word of R46 as a sum of its fields at their places. -/
def instructionWord (op : Nat) (h : Head) : Word :=
  .ofNat 16 (h.aflg0.toNat * 2 ^ 14 + h.aflg1.toNat * 2 ^ 12 + h.aflg2.toNat * 2 ^ 10 + h.sign.toNat * 2 ^ 9 + op)

/-- The indices an instruction with `k` register-mode positions reports (R63). -/
def regsOf (o : NibbleOrder) (k : Nat) (ow : Option Word) : List RegIdx :=
  match ow with
  | some w => indices o k w
  | none => []

/-- The record of R67 for an instruction of id `op` at word index `pos`, with its row of the opcode table given: arity `n`,
mnemonic `mnemonic`, and whether it is populated. -/
def record (c : Config) (pos op n : Nat) (mnemonic : Text) (known : Bool) (h : Head) (ow imm : Option Word) : Decoded where
  pos := pos
  word := instructionWord op h
  aflg0 := h.aflg0
  aflg1 := h.aflg1
  aflg2 := h.aflg2
  sign := h.sign
  op := .ofNat 9 op
  known := known
  mnemonic := mnemonic
  arity := n
  mode0 := mode n 0 h.aflg0
  mode1 := mode n 1 h.aflg1
  mode2 := mode n 2 h.aflg2
  k := count n h
  opword := ow
  regs := regsOf c.nibbleOrder (count n h) ow
  names := (regsOf c.nibbleOrder (count n h) ow).map (name c)
  imm := imm
  size := size (count n h) (decide (op = c.immCopyId))

/-- SEQ_STEP of R82 while ST = RUN, over DEC. -/
def seqStep (s : State) : State :=
  match s.code with
  | none => { s with st := .fault, finfo := some ⟨.noCodeRegion, 0, 0, 0⟩ }
  | some v =>
    if s.cur = v.len.toNat then { s with st := .done }
    else
      match dec s.cfg s.mem v s.cur with
      | .ok (d, size) => { s with out := s.out ++ [d], cur := s.cur + size }
      | .error f => { s with st := .fault, finfo := some f }

/-- The rows of the low block: each id with its constructor (R95..R133). -/
def lowRows : List (Fin 39 × (Head → Option Word → Option Word → Instr)) :=
  [(0, .op0), (1, .op1), (2, .op2), (3, .op3), (4, .op4), (5, .op5), (6, .op6), (7, .op7), (8, .op8), (9, .op9), (10, .op10), (11, .op11), (12, .op12),
    (13, .op13), (14, .op14), (15, .op15), (16, .op16), (17, .op17), (18, .op18), (19, .op19), (20, .op20), (21, .op21), (22, .op22), (23, .op23), (24, .op24), (25, .op25),
    (26, .op26), (27, .op27), (28, .op28), (29, .op29), (30, .op30), (31, .op31), (32, .op32), (33, .op33), (34, .op34), (35, .op35), (36, .op36), (37, .op37), (38, .op38)]

/-- What an instruction that decodes does to the state: its record is appended and CUR advances by its size (R82); every
other field is as before. -/
def recorded (s : State) (d : Decoded) : State := { s with out := s.out ++ [d], cur := s.cur + d.size }

/-- What taking a fault does to the state (R154); every other field is as before. -/
def faulted (s : State) (kind : FaultKind) (pos missing len : Nat) : State :=
  { s with st := .fault, finfo := some ⟨kind, pos, missing, len⟩ }

end Sys2Proof.Reference
end

