-- ==== Sys2Proof/Certificates/Slice0/Obligations.lean ====
section
/-!
DEFINITION. The statements for the provers. Every one is over all states (and so over all configurations), or over all
operands, unless it says otherwise; none rests on the configuration that `Machine.State.reset` holds, but for the last
conjuncts of `SweepInvariantAfterReset`, which say so.
-/

open Sys2Proof Sys2Proof.Machine

/-- R46, R59: the places of the five fields. -/
def Obligations.InstructionWordSplit : Prop :=
  ∀ w : Word,
    (headField w).aflg0.toNat = w.toNat / 2 ^ 14 ∧
    (headField w).aflg1.toNat = w.toNat / 2 ^ 12 % 4 ∧
    (headField w).aflg2.toNat = w.toNat / 2 ^ 10 % 4 ∧
    (headField w).sign.toNat = w.toNat / 2 ^ 9 % 2 ∧
    (opcodeField w).toNat = w.toNat % 2 ^ 9 ∧
    Reference.instructionWord (opcodeField w).toNat (headField w) = w ∧
    headWord (opcodeField w) (headField w) = w

/-- Decode and encode agree, one direction, for all 48 rows. Well-formedness of an instruction (overlay and sentinel rows) is the model's reading, log 12. -/
def Obligations.DecodeOfEncode : Prop :=
  ∀ (c : Config) (i : Instr) (rest : List Word), c.wf = true → i.wf c = true →
    decode c (encode c i ++ rest) = .ok (i, rest)

/-- Decode and encode agree, the other direction (log 12). -/
def Obligations.EncodeOfDecode : Prop :=
  ∀ (c : Config) (ws rest : List Word) (i : Instr), c.wf = true → decode c ws = .ok (i, rest) →
    i.wf c = true ∧ encode c i ++ rest = ws

/-- R45, R62, R65, which the spec marks as derived. -/
def Obligations.DecodeLengthFromFirstWord : Prop :=
  ∀ (c : Config) (w : Word) (rest : List Word),
    decode c [] = .error .noWord ∧
    (let n := Reference.size (Reference.count (c.arity (opcodeField w)) (headField w))
        (decide ((opcodeField w).toNat = c.immCopyId))
     (n ≤ rest.length + 1 → ∃ i, decode c (w :: rest) = .ok (i, (w :: rest).drop n)) ∧
     (rest.length + 1 < n → decode c (w :: rest) = .error (.truncated (rest.length + 1))))

/-- A sanity statement on words of 95_test_vectors.md, for every configuration. The words and fields are the spec's; which constructor
they become (.immCopy for IMM_COPY_ID, .errorClass for an unpopulated id only when it is not SENTINEL_ID, hence the
premises on immCopyId and sentinelId) is the model's reading, log 12. -/
def Obligations.SampleWordsDecode : Prop :=
  ∀ c : Config, c.wf = true →
    (c.arityLow[5] = 2 → c.immCopyId ≠ 5 →
      decode c [0x0005#16, 0x0120#16] = .ok (.op5 ⟨0, 0, 0, 0⟩ (some 0x0120#16) none, [])) ∧
    (c.immCopyId ≠ 66 →
      decode c [0x4042#16, 0x0120#16] = .ok (.op66 ⟨1, 0, 0, 0⟩ (some 0x0120#16) none, []) ∧
      decode c [0xA042#16] = .ok (.op66 ⟨2, 2, 0, 0⟩ none none, [])) ∧
    decode c [.ofNat 16 (0x2000 + c.immCopyId), 0x0050#16, 0xBEEF#16] =
      .ok (.immCopy ⟨0, 2, 0, 0⟩ (some 0x0050#16) (some 0xBEEF#16), []) ∧
    (c.sentinelId ≠ 511 → decode c [0xFFFF#16] = .ok (.errorClass 511#9 ⟨3, 3, 3, 1⟩, []))

/-- R47, R61; with them the count of R62. -/
def Obligations.RegisterModeIsFlagBitOne : Prop :=
  ∀ (n : Nat) (h : Head),
    modesOf n h = [Reference.mode n 0 h.aflg0, Reference.mode n 1 h.aflg1, Reference.mode n 2 h.aflg2] ∧
    regCount n h = Reference.count n h ∧ regCount n h ≤ n

/-- R52 on SIGN; R47 and R72 (c), (d) on bit 0 of a flag and on the flags beyond the arity, which no check reads by the spec's own
decision D13 (log 27). -/
def Obligations.SignAndIgnoredFlagsChangeNoShape : Prop :=
  ∀ (c : Config) (len pos : Nat) (op : OpId) (h h' : Head) (ow imm : Option Word),
    (0 < c.arity op → h.aflg0.getLsbD 1 = h'.aflg0.getLsbD 1) →
    (1 < c.arity op → h.aflg1.getLsbD 1 = h'.aflg1.getLsbD 1) →
    (2 < c.arity op → h.aflg2.getLsbD 1 = h'.aflg2.getLsbD 1) →
    (∃ f, decodeFields c len pos op h ow imm = .error f ∧ decodeFields c len pos op h' ow imm = .error f) ∨
    (∃ d, decodeFields c len pos op h ow imm = .ok d ∧ d.word = Reference.instructionWord op.toNat h ∧
      (d.aflg0, d.aflg1, d.aflg2, d.sign) = (h.aflg0, h.aflg1, h.aflg2, h.sign) ∧
      decodeFields c len pos op h' ow imm =
        .ok { d with word := Reference.instructionWord op.toNat h'
                     aflg0 := h'.aflg0, aflg1 := h'.aflg1, aflg2 := h'.aflg2, sign := h'.sign })

/-- R75, R76, R77; the order is the parameter of decision D3 (log 7), so both orders are stated. -/
def Obligations.UnpackLayouts : Prop :=
  ∀ (o : NibbleOrder) (ow : Word),
    (∀ k, 1 ≤ k → k ≤ 3 → unpack o ow k = Reference.indices o k ow) ∧
    (unpack o ow 1).map (·.toNat) = [ow.toNat / 2 ^ 4 % 16] ∧
    (unpack .msbFirst ow 2).map (·.toNat) = [ow.toNat / 2 ^ 8 % 16, ow.toNat / 2 ^ 4 % 16] ∧
    (unpack .lsbFirst ow 2).map (·.toNat) = [ow.toNat / 2 ^ 4 % 16, ow.toNat / 2 ^ 8 % 16] ∧
    (unpack .msbFirst ow 3).map (·.toNat) = [ow.toNat / 2 ^ 12, ow.toNat / 2 ^ 8 % 16, ow.toNat / 2 ^ 4 % 16] ∧
    (unpack .lsbFirst ow 3).map (·.toNat) = [ow.toNat / 2 ^ 4 % 16, ow.toNat / 2 ^ 8 % 16, ow.toNat / 2 ^ 12]

/-- R78, which rests on decision D13 (log 27). -/
def Obligations.IgnoredOperandBits : Prop :=
  ∀ (o : NibbleOrder) (k : Nat) (ow ow' : Word), 1 ≤ k → k ≤ 3 →
    (∀ b, 4 ≤ b → b < 4 * k + 4 → ow.getLsbD b = ow'.getLsbD b) → unpack o ow k = unpack o ow' k

/-- R25, R79. -/
def Obligations.RegisterNamerRom : Prop :=
  ∀ (c : Config) (r : RegIdx),
    c.nameOf r = Reference.name c r ∧
    (c.wf = true → ∀ q : RegIdx, 1 ≤ r.toNat → r.toNat ≤ 6 → 1 ≤ q.toNat → q.toNat ≤ 6 →
      c.nameOf r = c.nameOf q → r = q)

/-- R81. -/
def Obligations.InvalidRegisterChangesOnlyTheName : Prop :=
  ∀ (c : Config) (len pos : Nat) (op : OpId) (h : Head) (w w' : Word) (imm : Option Word),
    (∃ f, decodeFields c len pos op h (some w) imm = .error f ∧ decodeFields c len pos op h (some w') imm = .error f) ∨
    (∃ d d', decodeFields c len pos op h (some w) imm = .ok d ∧ decodeFields c len pos op h (some w') imm = .ok d' ∧
      d' = { d with opword := d'.opword, regs := d'.regs, names := d'.names } ∧ d.regs.length = d'.regs.length)

/-- R69, the spec's own choice D12 (log 26). -/
def Obligations.PositionOfIndex : Prop :=
  ∀ (n : Nat) (h : Head),
    (∀ j, (posOf (modesOf n h) j).isSome = true ↔ j < regCount n h) ∧
    (∀ j p, posOf (modesOf n h) j = some p → p < n ∧ (modesOf n h)[p]? = some .reg) ∧
    (∀ j j' p p', posOf (modesOf n h) j = some p → posOf (modesOf n h) j' = some p' → j < j' → p < p') ∧
    (h.aflg0.getLsbD 1 = true → h.aflg1.getLsbD 1 = false → posOf (modesOf 2 h) 0 = some 1)

/-- R91, R94, R134 to R137, R144. That S1 and S2 are populated rows with their own arity and mnemonic is the spec's decision D5
(log 22); the unstated arities and names are parameters (D4, log 2). -/
def Obligations.OpcodeTableRom : Prop :=
  ∀ (c : Config) (op : OpId), c.wf = true →
    (c.populated op = true ↔ op.toNat ≤ 38 ∨ op.toNat = c.s1 ∨ op.toNat = c.s2 ∨
      (c.highBase ≤ op.toNat ∧ op.toNat ≤ c.highBase + 3)) ∧
    (∀ i : Fin 39, op.toNat = i.val → c.arity op = c.arityLow[i] ∧ c.mnem op = c.mnemLow[i]) ∧
    (op.toNat = c.s1 → c.arity op = c.arityS1 ∧ c.mnem op = c.mnemS1) ∧
    (op.toNat = c.s2 → c.arity op = c.arityS2 ∧ c.mnem op = c.mnemS2) ∧
    (∀ j : Fin 4, op.toNat = c.highBase + j.val → c.arity op = 2 ∧ c.mnem op = c.mnemHigh[j]) ∧
    (c.populated op = false → c.arity op = 0 ∧ c.mnem op = c.errorText) ∧
    c.arity op ≤ 3

/-- R54 and R145, which the spec marks as derived. -/
def Obligations.IdBoundsOfEveryConfiguration : Prop :=
  ∀ c : Config, c.wf = true →
    (∀ op : OpId, op.toNat ≤ 38 → c.populated op = true) ∧
    (c.populated 66#9 = true ∧ c.arity 66#9 = 2) ∧
    (∀ op : OpId, 70 ≤ op.toNat → c.populated op = false) ∧
    (39 ≤ c.s1 ∧ c.s1 < c.s2 ∧ c.s2 ≤ 65) ∧
    (∀ op : OpId, op.toNat = c.immCopyId → c.populated op = true ∧ c.arity op = 2 ∧ op.toNat ≤ 69) ∧
    (∀ op : OpId, op.toNat = c.sentinelId → c.populated op = false) ∧
    (∀ op : OpId, op.toNat = c.highBase + 4 →
      67 ≤ op.toNat ∧ op.toNat ≤ 70 ∧ c.populated op = false ∧ c.arity op = 0 ∧ c.mnem op = c.errorText)

/-- R137, R139, R140, R141 on the ids. -/
def Obligations.HighBlockMembers : Prop :=
  ∀ c : Config, c.wf = true →
    (∀ id : Nat, (c.highBase ≤ id ∧ id ≤ c.highBase + 3) ↔
      (id = 66 ∨ id = c.highA ∨ id = c.highB ∨ id = c.highC)) ∧
    c.highA < c.highB ∧ c.highB < c.highC ∧ c.highA ≠ 66 ∧ c.highB ≠ 66 ∧ c.highC ≠ 66 ∧
    c.highA ∈ [63, 64, 65, 67] ∧ c.highB ∈ [64, 65, 67, 68] ∧ c.highC ∈ [65, 67, 68, 69]

/-- R65, R67, R71. The fields the spec adds to the record are its decision D2. -/
def Obligations.DecOfFittingInstruction : Prop :=
  ∀ (c : Config) (m : Memory) (v : CodeView) (pos : Nat),
    let w := codeAt c m v pos
    let op := opcodeField w
    let n := c.arity op
    let k := Reference.count n (headField w)
    let isImm := decide (op.toNat = c.immCopyId)
    let size := Reference.size k isImm
    pos + size ≤ v.len.toNat →
    dec c m v pos = .ok (Reference.record c pos op.toNat n (c.mnem op) (c.populated op) (headField w)
      (if 1 ≤ k then some (codeAt c m v (pos + 1)) else none)
      (if isImm = true then some (codeAt c m v (pos + size - 1)) else none), size)

/-- R148, R149, R153; codes and record fields are the spec's decisions D7, D8, D24 (log 24). -/
def Obligations.DecFaults : Prop :=
  ∀ (c : Config) (m : Memory) (v : CodeView) (pos : Nat),
    let w := codeAt c m v pos
    let len := v.len.toNat
    let size := Reference.size (Reference.count (c.arity (opcodeField w)) (headField w))
      (decide ((opcodeField w).toNat = c.immCopyId))
    (len ≤ pos → dec c m v pos = .error ⟨.cursorOutOfRange, pos, pos, len⟩) ∧
    (pos < len → len < pos + size → dec c m v pos = .error ⟨.truncatedInstruction, pos, len, len⟩) ∧
    FaultKind.cursorOutOfRange.code = 1 ∧ FaultKind.truncatedInstruction.code = 2 ∧ FaultKind.noCodeRegion.code = 3

/-- R29, R31. -/
def Obligations.DecIsAFunctionOfTheCodeWords : Prop :=
  ∀ (c : Config) (m m' : Memory) (v v' : CodeView) (pos : Nat), v.len = v'.len →
    (∀ a, pos ≤ a → a < pos + 3 → a < v.len.toNat → codeAt c m v a = codeAt c m' v' a) →
    dec c m v pos = dec c m' v' pos

/-- R66. -/
def Obligations.DecSizes : Prop :=
  ∀ (c : Config) (m : Memory) (v : CodeView) (pos : Nat) (d : Decoded) (size : Nat),
    dec c m v pos = .ok (d, size) →
    size = d.size ∧ pos + size ≤ v.len.toNat ∧
    (size = 1 ↔ d.k = 0 ∧ d.op.toNat ≠ c.immCopyId) ∧
    (size = 2 ↔ ((1 ≤ d.k ∧ d.op.toNat ≠ c.immCopyId) ∨ (d.k = 0 ∧ d.op.toNat = c.immCopyId))) ∧
    (size = 3 ↔ 1 ≤ d.k ∧ d.op.toNat = c.immCopyId) ∧
    ∀ s : State, (s.commit (.ok d)).cur = s.cur + size

/-- R68. -/
def Obligations.DecodedRegisterListHasKEntries : Prop :=
  ∀ (c : Config) (m : Memory) (v : CodeView) (pos : Nat) (d : Decoded) (size : Nat),
    dec c m v pos = .ok (d, size) →
    d.regs.length = d.k ∧ d.k = [d.mode0, d.mode1, d.mode2].count .reg ∧
    d.k ≤ d.arity ∧ (Mode.nonReg ∈ [d.mode0, d.mode1, d.mode2] → d.regs.length < d.arity) ∧
    d.names = d.regs.map (Reference.name c) ∧
    (∀ (j : Nat) (r : RegIdx), d.regs[j]? = some r → (r.toNat = 0 ∨ 7 ≤ r.toNat) → d.names[j]? = some c.nilName)

/-- R51. -/
def Obligations.ImmediateIsTheLastWordVerbatim : Prop :=
  ∀ (c : Config) (m : Memory) (v : CodeView) (pos : Nat) (d : Decoded) (size : Nat),
    dec c m v pos = .ok (d, size) →
    d.imm = (if d.op.toNat = c.immCopyId then some (codeAt c m v (if 1 ≤ d.k then pos + 2 else pos + 1)) else none) ∧
    (d.op.toNat = c.immCopyId → (if 1 ≤ d.k then pos + 2 else pos + 1) = pos + size - 1)

/-- R144. -/
def Obligations.UnpopulatedIdDecodesAsErrorClass : Prop :=
  ∀ (c : Config) (m : Memory) (v : CodeView) (pos : Nat), c.wf = true → pos < v.len.toNat →
    let w := codeAt c m v pos
    let id := (opcodeField w).toNat
    (c.populated (opcodeField w) = false ↔
      (39 ≤ id ∧ id < c.highBase ∧ id ≠ c.s1 ∧ id ≠ c.s2) ∨ c.highBase + 4 ≤ id) ∧
    (c.populated (opcodeField w) = false → ∃ d, dec c m v pos = .ok (d, 1) ∧
      d.pos = pos ∧ d.word = w ∧ d.op = opcodeField w ∧ (d.aflg0, d.aflg1, d.aflg2, d.sign) =
        ((headField w).aflg0, (headField w).aflg1, (headField w).aflg2, (headField w).sign) ∧
      d.arity = 0 ∧ d.k = 0 ∧ d.opword = none ∧ d.regs = [] ∧ d.names = [] ∧ d.imm = none ∧ d.known = false ∧
      d.mnemonic = c.errorText ∧ d.size = 1)

/-- R27, R31, R35; the byte-level view is decision D10 (log 5, log 6). -/
def Obligations.SuppliedRegionIsRead : Prop :=
  ∀ (s : State) (off : Nat) (ws : List Word), s.mem.wf → ws.length ≤ 65535 →
    (s.loadRegion off ws).len = ws.length ∧
    (∀ i, (s.loadRegion off ws).codeWord? i = ws[i]?) ∧
    (∀ a, (a < off ∨ off + 2 * ws.length ≤ a) → (s.loadRegion off ws).mem.read a = s.mem.read a) ∧
    (s.loadRegion off ws).mem.wf

/-- R35; the default order is decision D10 (log 6). -/
def Obligations.WordFromItsTwoBytes : Prop :=
  ∀ (c : Config) (m : Memory) (v : CodeView) (i : Nat),
    (c.byteOrder = .little →
      (codeAt c m v i).toNat = (m.read (v.off + 2 * i)).toNat + 256 * (m.read (v.off + 2 * i + 1)).toNat) ∧
    (c.byteOrder = .big →
      (codeAt c m v i).toNat = (m.read (v.off + 2 * i + 1)).toNat + 256 * (m.read (v.off + 2 * i)).toNat)

/-- R31; the window is the model's way to read the words (log 14). -/
def Obligations.FetchWindowIsTheRegionAtTheCursor : Prop :=
  ∀ (s : State) (v : CodeView), s.code = some v →
    s.fetchWindow.length = min 3 (v.len.toNat - s.cur) ∧
    ∀ j, j < s.fetchWindow.length → s.fetchWindow[j]? = some (codeAt s.cfg s.mem v (s.cur + j))

/-- R94 to R133 with R67 and R82. One statement for the 39 rows, which have one shape. -/
def Obligations.LowBlockDecodes : Prop :=
  ∀ row ∈ Reference.lowRows, ∀ (s : State) (v : CodeView) (h : Head) (ow imm : Option Word),
    let n := s.cfg.arityLow[row.1]
    let isImm := decide (row.1.val = s.cfg.immCopyId)
    s.code = some v →
    ow.isSome = decide (1 ≤ Reference.count n h) → imm.isSome = isImm →
    s.cur + Reference.size (Reference.count n h) isImm ≤ v.len.toNat →
    exec (row.2 h ow imm) s =
      .next (Reference.recorded s
        (Reference.record s.cfg s.cur row.1.val n s.cfg.mnemLow[row.1] true h ow imm))

/-- R135 with R67 and R82. That S1 is populated is decision D5 (log 22). -/
def Obligations.SingletonS1Decodes : Prop :=
  ∀ (s : State) (v : CodeView) (h : Head) (ow imm : Option Word),
    let isImm := decide (s.cfg.s1 = s.cfg.immCopyId)
    s.cfg.wf = true → s.code = some v →
    ow.isSome = decide (1 ≤ Reference.count s.cfg.arityS1 h) → imm.isSome = isImm →
    s.cur + Reference.size (Reference.count s.cfg.arityS1 h) isImm ≤ v.len.toNat →
    exec (.s1 h ow imm) s =
      .next (Reference.recorded s
        (Reference.record s.cfg s.cur s.cfg.s1 s.cfg.arityS1 s.cfg.mnemS1 true h ow imm))

/-- R136 with R67 and R82. That S2 is populated is decision D5 (log 22). -/
def Obligations.SingletonS2Decodes : Prop :=
  ∀ (s : State) (v : CodeView) (h : Head) (ow imm : Option Word),
    let isImm := decide (s.cfg.s2 = s.cfg.immCopyId)
    s.cfg.wf = true → s.code = some v →
    ow.isSome = decide (1 ≤ Reference.count s.cfg.arityS2 h) → imm.isSome = isImm →
    s.cur + Reference.size (Reference.count s.cfg.arityS2 h) isImm ≤ v.len.toNat →
    exec (.s2 h ow imm) s =
      .next (Reference.recorded s
        (Reference.record s.cfg s.cur s.cfg.s2 s.cfg.arityS2 s.cfg.mnemS2 true h ow imm))

/-- R137 to R141 with R67 and R82. -/
def Obligations.HighBlockDecodes : Prop :=
  ∀ (s : State) (v : CodeView) (h : Head) (ow imm : Option Word), s.cfg.wf = true → s.code = some v →
    ∀ row ∈ ([(s.cfg.highA, .ha), (s.cfg.highB, .hb), (66, .op66), (s.cfg.highC, .hc)] :
        List (Nat × (Head → Option Word → Option Word → Instr))),
    let isImm := decide (row.1 = s.cfg.immCopyId)
    ow.isSome = decide (1 ≤ Reference.count 2 h) → imm.isSome = isImm →
    s.cur + Reference.size (Reference.count 2 h) isImm ≤ v.len.toNat →
    ∃ j : Fin 4, row.1 = s.cfg.highBase + j.val ∧
      exec (row.2 h ow imm) s =
        .next (Reference.recorded s
          (Reference.record s.cfg s.cur row.1 2 s.cfg.mnemHigh[j] true h ow imm))

/-- R142 with R67 and R82; that the immediate is read whatever k is, is decision D6 (log 23). -/
def Obligations.ImmediateCopyDecodes : Prop :=
  ∀ (s : State) (v : CodeView) (h : Head) (ow : Option Word) (x : Word), s.cfg.wf = true → s.code = some v →
    ow.isSome = decide (1 ≤ Reference.count 2 h) →
    s.cur + 2 + (if 1 ≤ Reference.count 2 h then 1 else 0) ≤ v.len.toNat →
    ∃ t, exec (.immCopy h ow (some x)) s = .next t ∧
      t.cur = s.cur + 2 + (if 1 ≤ Reference.count 2 h then 1 else 0) ∧
      t = Reference.recorded s (Reference.record s.cfg s.cur s.cfg.immCopyId 2
        (s.cfg.mnem (.ofNat 9 s.cfg.immCopyId)) true h ow (some x))

/-- R143, R144 with R67 and R82. -/
def Obligations.SentinelAndErrorClassDecode : Prop :=
  ∀ (s : State) (v : CodeView) (h : Head) (op : OpId), s.cfg.wf = true → s.code = some v → s.cur < v.len.toNat →
    (let d := Reference.record s.cfg s.cur s.cfg.sentinelId 0 s.cfg.errorText false h none none
     d.size = 1 ∧ exec (.sentinel h) s = .next (Reference.recorded s d)) ∧
    (s.cfg.populated op = false →
      (let d := Reference.record s.cfg s.cur op.toNat 0 s.cfg.errorText false h none none
       d.size = 1 ∧ exec (.errorClass op h) s = .next (Reference.recorded s d)))

/-- R149, whose record fields are the spec's decision D7 (log 24); that CUR and OUT stay is R154 and R82, decision D14 (log 25).
Terms of Instr that lack a word their layout needs, which the decoder never makes (log 11), are left out by the premises. -/
def Obligations.TruncatedInstructionIsTaken : Prop :=
  ∀ (i : Instr) (s : State) (v : CodeView), s.code = some v → s.cur < v.len.toNat →
    i.opword.isSome = decide (1 ≤ Reference.count (i.arity s.cfg) i.head) →
    i.imm.isSome = decide ((i.opcode s.cfg).toNat = s.cfg.immCopyId) →
    v.len.toNat < s.cur + Reference.size (Reference.count (i.arity s.cfg) i.head)
      (decide ((i.opcode s.cfg).toNat = s.cfg.immCopyId)) →
    exec i s = .next (Reference.faulted s .truncatedInstruction s.cur v.len.toNat v.len.toNat)

/-- R150, R82, which rest on decisions D9, D14 (log 24). -/
def Obligations.AbsentRegionFaults : Prop :=
  ∀ s : State, s.cfg.wf = true → s.st = .run →
    (s.code = none → step s = .next (Reference.faulted s .noCodeRegion 0 0 0) ∧
      ∀ i, exec i s = .next (Reference.faulted s .noCodeRegion 0 0 0)) ∧
    (∀ v, s.code = some v → s.cur = v.len.toNat → step s = .next { s with st := .done })

/-- R148, decision D8 (log 16). -/
def Obligations.CursorBeyondRegionFaults : Prop :=
  ∀ (s : State) (v : CodeView), s.code = some v → v.len.toNat ≤ s.cur →
    (∀ i, exec i s = .next (Reference.faulted s .cursorOutOfRange s.cur s.cur v.len.toNat)) ∧
    (s.cfg.wf = true → s.st = .run → v.len.toNat ≠ s.cur →
      step s = .next (Reference.faulted s .cursorOutOfRange s.cur s.cur v.len.toNat))

/-- R82; nothing is added around exec on this hardware. -/
def Obligations.StepRunsTheDecodedInstruction : Prop :=
  ∀ (s : State) (v : CodeView) (i : Instr) (rest : List Word), s.cfg.wf = true → s.st = .run → s.code = some v →
    s.cur < v.len.toNat → decode s.cfg s.fetchWindow = .ok (i, rest) → step s = exec i s

/-- The model's own interface for supplying a program (log 8, log 18). -/
def Obligations.PlacedInstructionRunsNext : Prop :=
  ∀ (s : State) (w : Nat) (i : Instr) (rest : List Word), s.cfg.wf = true → s.mem.wf →
    decode s.cfg (tableWords 16 w) = .ok (i, rest) →
    step (s.withFetchWord 16 w) = exec i (s.withFetchWord 16 w)

/-- R71 and R82; the stop at DONE and FAULT is the model's reading of "no step" (log 9). -/
def Obligations.StepIsSeqStepOverDec : Prop :=
  ∀ s : State, s.cfg.wf = true →
    step s = match s.st with
      | .run => .next (Reference.seqStep s)
      | .done => .fault .sweepDone
      | .fault => .fault .sweepFaulted

/-- R82, R87, R92, R155; refusing is decision D20 (log 10). -/
def Obligations.StepIsPossibleExactlyWhileRunning : Prop :=
  ∀ s : State,
    ((∃ t, step s = .next t) ↔ (∀ k : ConfigCheck, k.holds s.cfg = true) ∧ s.st = .run) ∧
    (∀ k : ConfigCheck, k.holds s.cfg = false →
      ∃ k', k'.holds s.cfg = false ∧ step s = .refused (.illFormedConfig k'))

/-- R39 on the region and R23 on the configuration. That a meaning answers in every state, whatever ST holds and whatever words the
term carries, is the model's: an instruction's meaning is the decode step on it (R71, R82; log 13), a term lacking a word
truncates (log 11), and only `step` stops at DONE, at FAULT and on an ill-formed configuration (log 9, log 10). -/
def Obligations.CodeRegionNeverChanges : Prop :=
  (∀ (i : Instr) (s : State), ∃ t, exec i s = .next t) ∧
  ∀ (s t : State) (i : Instr), (step s = .next t ∨ exec i s = .next t) →
    t.code = s.code ∧ t.mem = s.mem ∧ t.cfg = s.cfg ∧ (∀ a, t.mem.read a = s.mem.read a) ∧
    ∀ a, t.codeWord? a = s.codeWord? a

/-- R82, R154, decision D14 (log 25); R39 and R23 on what no step writes. -/
def Obligations.StepFrame : Prop :=
  ∀ s t : State, step s = .next t →
    t.cfg = s.cfg ∧ t.mem = s.mem ∧ t.code = s.code ∧
    ((∃ d, t.out = s.out ++ [d] ∧ d.pos = s.cur ∧ t.cur = s.cur + d.size ∧ 1 ≤ d.size ∧ d.size ≤ 3 ∧
      t.st = .run ∧ t.finfo = s.finfo) ∨
    (t.cur = s.cur ∧ t.out = s.out ∧ ((t.st = .done ∧ t.finfo = s.finfo) ∨ (t.st = .fault ∧ t.finfo.isSome = true))))

/-- R90 on the advance by the size; that a fault leaves CUR and OUT is R82 and R154, the spec's decision D14 (log 25). A term of Instr
that lacks a word its layout needs takes the fault alternative by the model's own choice (log 11). -/
def Obligations.SweepNeverFollowsControlFlow : Prop :=
  ∀ (i : Instr) (s t : State), exec i s = .next t →
    (t.cur = s.cur ∧ t.out = s.out ∧ t.st = .fault) ∨
    (t.cur = s.cur + Reference.size (Reference.count (i.arity s.cfg) i.head)
        (decide ((i.opcode s.cfg).toNat = s.cfg.immCopyId)) ∧ t.out.length = s.out.length + 1 ∧ t.st = s.st)

/-- R159, decision D15. The reset state's configuration and absent region are the model's choice (log 2, log 8). -/
def Obligations.SweepInvariantAfterReset : Prop :=
  (∀ s : State, s.resetFrom.cur = 0 ∧ s.resetFrom.st = .run ∧ s.resetFrom.finfo = none ∧ s.resetFrom.out = [] ∧
    s.resetFrom.cfg = s.cfg ∧ s.resetFrom.mem = s.mem ∧ s.resetFrom.code = s.code ∧ s.resetFrom.Inv) ∧
  State.reset.cur = 0 ∧ State.reset.st = .run ∧ State.reset.finfo = none ∧ State.reset.out = [] ∧
  State.reset.Inv ∧ State.reset.mem.wf ∧ State.reset.cfg.wf = true

/-- R83, R85, R86, which the spec marks as derived or decided (log 24, log 25). -/
def Obligations.StepKeepsSweepInvariant : Prop :=
  ∀ s t : State, s.Inv → step s = .next t → t.Inv

/-- R87, which the spec marks as derived. -/
def Obligations.SweepEndsWithinLenPlusOneSteps : Prop :=
  ∀ s : State, s.cfg.wf = true → s.Inv → s.st = .run →
    ∃ k t, 1 ≤ k ∧ k ≤ s.len - s.cur + 1 ∧ core.run k s = .next t ∧ t.st ≠ .run

/-- R85, which the spec marks as derived. -/
def Obligations.DoneSweepTilesTheRegion : Prop :=
  ∀ (s t : State) (n : Nat), core.run n s.resetFrom = .next t → t.st = .done →
    ∃ v, s.code = some v ∧ t.Swept ∧ Tiles 0 t.out v.len.toNat ∧
      (∀ d ∈ t.out, dec s.cfg s.mem v d.pos = .ok (d, d.size)) ∧
      ∀ a, a < v.len.toNat → ∃ j : Fin t.out.length, t.out[j].covers a ∧ ∀ j' : Fin t.out.length, t.out[j'].covers a → j' = j

/-- R86, R154; keeping the prefix is decision D14 (log 25). With no region the fault is SEQ's NoCodeRegion and not DEC's: R150, decision
D9; the records' fields are D7 (both log 24). -/
def Obligations.TruncatedSweepKeepsItsPrefix : Prop :=
  ∀ (s t : State) (n : Nat), core.run n s.resetFrom = .next t → t.st = .fault →
    (s.code = none ∧ t.finfo = some ⟨.noCodeRegion, 0, 0, 0⟩ ∧ t.out = [] ∧ t.cur = 0) ∨
    (∃ v, s.code = some v ∧ Tiles 0 t.out t.cur ∧ (∀ d ∈ t.out, dec s.cfg s.mem v d.pos = .ok (d, d.size)) ∧
      t.cur < v.len.toNat ∧ t.finfo = some ⟨.truncatedInstruction, t.cur, v.len.toNat, v.len.toNat⟩ ∧
      dec s.cfg s.mem v t.cur = .error ⟨.truncatedInstruction, t.cur, v.len.toNat, v.len.toNat⟩)

/-- R88, which the spec marks as derived: the round trip of the source. -/
def Obligations.SweepOfSynthesisedInstructions : Prop :=
  ∀ (s : State) (v : CodeView) (is : List Instr),
    s.cfg.wf = true → (∀ i ∈ is, i.wf s.cfg = true) → s.code = some v →
    (is.flatMap (encode s.cfg)).length = v.len.toNat →
    (∀ a, a < v.len.toNat → (is.flatMap (encode s.cfg))[a]? = some (codeAt s.cfg s.mem v a)) →
    ∃ t, core.run (is.length + 1) s.resetFrom = .next t ∧ t.st = .done ∧ t.cur = v.len.toNat ∧
      t.out.length = is.length ∧
      ∀ j : Nat, ∀ i, is[j]? = some i → ∃ d, t.out[j]? = some d ∧
        d.op = i.opcode s.cfg ∧ (d.aflg0, d.aflg1, d.aflg2, d.sign) =
          (i.head.aflg0, i.head.aflg1, i.head.aflg2, i.head.sign) ∧
        d.opword = i.opword ∧ d.imm = i.imm ∧ d.size = i.size s.cfg

/-- R70, R89, which the spec marks as derived. -/
def Obligations.SweepDependsOnTheCodeWordsAlone : Prop :=
  ∀ (s s' : State) (v v' : CodeView) (n : Nat), s.cfg = s'.cfg → s.code = some v → s'.code = some v' → v.len = v'.len →
    (∀ a, a < v.len.toNat → codeAt s.cfg s.mem v a = codeAt s'.cfg s'.mem v' a) →
    (∃ t t', core.run n s.resetFrom = .next t ∧ core.run n s'.resetFrom = .next t' ∧
      t.cur = t'.cur ∧ t.st = t'.st ∧ t.finfo = t'.finfo ∧ t.out = t'.out) ∨
    ((∀ t, core.run n s.resetFrom ≠ .next t) ∧ ∀ t', core.run n s'.resetFrom ≠ .next t')
end

