-- ==== Sys2Proof/Laws/Encode.lean ====
section
/-!
SUPPORT. The instruction word is split and put together without loss, and the small lemmas of the decoder's helpers.
-/

namespace Sys2Proof

/-- A word's value, with the width of Literals.lean evaluated; likewise the fields' below. -/
theorem Word.toNat_lt (w : Word) : w.toNat < 65536 := w.isLt
theorem Flag.toNat_lt (f : Flag) : f.toNat < 4 := f.isLt
theorem Sign.toNat_lt (b : Sign) : b.toNat < 2 := b.isLt
theorem OpId.toNat_lt (op : OpId) : op.toNat < 512 := op.isLt
theorem RegIdx.toNat_lt (r : RegIdx) : r.toNat < 16 := r.isLt

/-- Shifted to their places, the five fields are the word's bits from the most significant to the least (R46). -/
theorem headWord_eq_append (op : OpId) (h : Head) :
    headWord op h = h.aflg0 ++ h.aflg1 ++ h.aflg2 ++ h.sign ++ op := by
  obtain ⟨a, b, c, d⟩ := h
  unfold headWord
  apply BitVec.eq_of_getLsbD_eq
  intro i hi
  have hi' : i < 16 := hi
  change _ = BitVec.getLsbD (w := 2 + 2 + 2 + 1 + 9) (a ++ b ++ c ++ d ++ op) i
  simp only [BitVec.getLsbD_append, BitVec.getLsbD_or, BitVec.getLsbD_shiftLeft, BitVec.getLsbD_setWidth, hi]
  interval_cases i <;> simp

theorem opcodeField_headWord (op : OpId) (h : Head) : opcodeField (headWord op h) = op := by
  obtain ⟨a, b, c, d⟩ := h
  unfold opcodeField
  rw [headWord_eq_append]
  ext i hi
  simp only [Literal.opLo, BitVec.getElem_extractLsb', Nat.zero_add, BitVec.getLsbD_append, hi]
  exact BitVec.getLsbD_eq_getElem hi

theorem headField_headWord (op : OpId) (h : Head) : headField (headWord op h) = h := by
  obtain ⟨a, b, c, d⟩ := h
  unfold headField
  rw [headWord_eq_append]
  simp only [Head.mk.injEq]
  refine ⟨?_, ?_, ?_, ?_⟩ <;> ext i hi <;> simp <;> grind

/-- The split loses no bit of the instruction word (R46). -/
theorem headWord_fields (w : Word) : headWord (opcodeField w) (headField w) = w := by
  rw [headWord_eq_append]
  unfold opcodeField headField
  ext i hi
  simp only [BitVec.getElem_append, BitVec.getElem_extractLsb']
  split_ifs <;> grind

@[simp] theorem takeWord_false (ws : List Word) : takeWord false ws = some (none, ws) := by cases ws <;> rfl
@[simp] theorem takeWord_true_cons (w : Word) (ws : List Word) : takeWord true (w :: ws) = some (some w, ws) := rfl
@[simp] theorem takeWord_true_nil : takeWord true [] = none := rfl

/-- What `takeWord` can answer: the word it took stood in front of the rest. -/
theorem takeWord_some {b : Bool} {ws rest : List Word} {w : Option Word} (h : takeWord b ws = some (w, rest)) :
    ws = w.toList ++ rest ∧ w.isSome = b := by
  cases b with
  | false => simp at h; simp [← h.1, h.2]
  | true =>
    cases ws with
    | nil => simp at h
    | cons x xs => simp at h; simp [← h.1, h.2]

theorem takeWord_toList {b : Bool} {w : Option Word} (h : w.isSome = b) (rest : List Word) :
    takeWord b (w.toList ++ rest) = some (w, rest) := by
  cases w <;> subst h <;> simp

theorem sizeOfShape_false (k : Nat) : sizeOfShape k false = 1 + (if 1 ≤ k then 1 else 0) := by simp [sizeOfShape]

theorem wf_idOk {c : Config} {i : Instr} (h : i.wf c = true) : i.idOk c = true := by
  simp only [Instr.wf, Bool.and_eq_true] at h; exact h.1.1

theorem wf_operand {c : Config} {i : Instr} (h : i.wf c = true) : i.opword.isSome = decide (1 ≤ i.k c) := by
  simp only [Instr.wf, Bool.and_eq_true, Instr.operandOk, decide_eq_true_eq] at h; exact h.1.2

theorem wf_immediate {c : Config} {i : Instr} (h : i.wf c = true) : i.imm.isSome = c.isImmCopy (i.opcode c) := by
  simp only [Instr.wf, Bool.and_eq_true, Instr.immediateOk, decide_eq_true_eq] at h; exact h.2

theorem option_toList_length {α : Type} (w : Option α) : w.toList.length = if w.isSome then 1 else 0 := by
  cases w <;> rfl

/-- A well-formed instruction has as many words as its size says (R44, R66). -/
theorem encode_length {c : Config} {i : Instr} (h : i.wf c = true) : (encode c i).length = i.size c := by
  simp only [encode, List.length_cons, List.length_append, option_toList_length, wf_operand h, wf_immediate h,
    Instr.size, sizeOfShape, decide_eq_true_eq]
  omega

/-- An instruction occupies 1, 2 or 3 words (R66). -/
theorem sizeOfShape_bounds (k : Nat) (b : Bool) : 1 ≤ sizeOfShape k b ∧ sizeOfShape k b ≤ Literal.maxWords := by
  unfold sizeOfShape
  constructor <;> split_ifs <;> decide

end Sys2Proof
end

