-- ==== Sys2Proof/Laws/Tables.lean ====
section
/-!
SUPPORT. What the opcode table answers for each class of ids under a well-formed configuration (spec/43_opcode_catalogue.md
R91, R92), and where the ids lie.
-/

namespace Sys2Proof

/-- The bounds that the checks of R92 put on the ids, in one place. -/
theorem Config.wf_bounds {c : Config} (h : c.wf = true) :
    39 ≤ c.s1 ∧ c.s1 < c.s2 ∧ c.s2 < c.highBase ∧ 63 ≤ c.highBase ∧ c.highBase ≤ 66 ∧ c.highBase + 4 ≤ c.sentinelId ∧
      c.sentinelId ≤ 511 ∧ c.arityS1 ≤ 3 ∧ c.arityS2 ≤ 3 := by
  simp only [Config.wf, ConfigCheck.all, List.all_cons, List.all_nil, Bool.and_eq_true, ConfigCheck.holds,
    decide_eq_true_eq, Literal.lowCount, Literal.maxArity, Literal.knownHighId, Literal.highCount,
    Literal.maxOpId, Literal.opBits] at h
  omega

theorem Config.wf_imm {c : Config} (h : c.wf = true) : c.populatedId c.immCopyId = true ∧ c.arityId c.immCopyId = 2 := by
  simp only [Config.wf, ConfigCheck.all, List.all_cons, List.all_nil, Bool.and_eq_true, ConfigCheck.holds,
    decide_eq_true_eq] at h
  exact h.2.2.2.2.1

theorem Config.wf_low {c : Config} (h : c.wf = true) (i : Fin Literal.lowCount) : c.arityLow[i] ≤ 3 := by
  simp only [Config.wf, ConfigCheck.all, List.all_cons, List.all_nil, Bool.and_eq_true, ConfigCheck.holds,
    List.all_eq_true, decide_eq_true_eq] at h
  exact h.1 _ (by simp)

theorem Config.wf_regNames {c : Config} (h : c.wf = true) : c.regNames.toList.Nodup := by
  simp only [Config.wf, ConfigCheck.all, List.all_cons, List.all_nil, Bool.and_eq_true, ConfigCheck.holds,
    decide_eq_true_eq] at h
  exact h.2.2.2.2.2.1

/-- A configuration is refused exactly when it is not well formed (R92, D20). -/
theorem Config.failedCheck_eq_none {c : Config} : c.failedCheck = none ↔ c.wf = true := by
  simp [Config.failedCheck, Config.wf]

theorem populatedId_iff {c : Config} {id : Nat} : c.populatedId id = true ↔
    id < 39 ∨ id = c.s1 ∨ id = c.s2 ∨ (c.highBase ≤ id ∧ id < c.highBase + 4) := by
  simp [Config.populatedId, or_assoc]

/-- An id that is not populated has arity 0 (R91, R144). -/
theorem arityId_of_not_populated {c : Config} {id : Nat} (h : c.populatedId id = false) : c.arityId id = 0 := by
  have h' : ¬ c.populatedId id = true := by simp [h]
  rw [populatedId_iff] at h'
  unfold Config.arityId
  rw [dif_neg (by change ¬ _ < 39; omega), if_neg (by omega), if_neg (by omega), if_neg (by change ¬ (_ ∧ _ < _ + 4); omega)]

/-- An id that is not populated has the ERROR text (R91, R144). -/
theorem mnemId_of_not_populated {c : Config} {id : Nat} (h : c.populatedId id = false) : c.mnemId id = c.errorText := by
  have h' : ¬ c.populatedId id = true := by simp [h]
  rw [populatedId_iff] at h'
  unfold Config.mnemId
  rw [dif_neg (by change ¬ _ < 39; omega), if_neg (by omega), if_neg (by omega), dif_neg (by change ¬ (_ ∧ _ < _ + 4); omega)]

/-- The arity of a low-block id is its parameter (R94). -/
theorem arityId_low {c : Config} {id : Nat} (h : id < Literal.lowCount) : c.arityId id = c.arityLow[id] := by
  simp only [Config.arityId, dif_pos h]

theorem mnemId_low {c : Config} {id : Nat} (h : id < Literal.lowCount) : c.mnemId id = c.mnemLow[id] := by
  simp only [Config.mnemId, dif_pos h]

theorem arityId_s1 {c : Config} (h : c.wf = true) : c.arityId c.s1 = c.arityS1 := by
  have := Config.wf_bounds h
  simp only [Config.arityId]
  rw [dif_neg (by change ¬ _ < 39; omega), if_pos trivial]

theorem arityId_s2 {c : Config} (h : c.wf = true) : c.arityId c.s2 = c.arityS2 := by
  have := Config.wf_bounds h
  simp only [Config.arityId]
  rw [dif_neg (by change ¬ _ < 39; omega), if_neg (by omega), if_pos trivial]

/-- The arity of a high-block id is 2 (R137). -/
theorem arityId_high {c : Config} {id : Nat} (h : c.wf = true) (hid : c.highBase ≤ id ∧ id < c.highBase + 4) :
    c.arityId id = 2 := by
  have := Config.wf_bounds h
  simp only [Config.arityId]
  rw [dif_neg (by change ¬ _ < 39; omega), if_neg (by omega), if_neg (by omega), if_pos hid]

/-- The three high-block ids other than 66 lie in the block, differ from 66, and increase (R139, R140, R141). -/
theorem highOther_bounds {c : Config} (h : c.wf = true) :
    c.highBase ≤ c.highA ∧ c.highA < c.highB ∧ c.highB < c.highC ∧ c.highC < c.highBase + 4 ∧ c.highA ≠ 66 ∧
      c.highB ≠ 66 ∧ c.highC ≠ 66 := by
  have := Config.wf_bounds h
  simp only [Config.highA, Config.highB, Config.highC, Config.highOther, Literal.knownHighId]
  split_ifs <;> omega

/-- IMM_COPY_ID is a 9-bit id, at most 69 (R54, R92). -/
theorem immCopyId_le {c : Config} (h : c.wf = true) : c.immCopyId ≤ 69 := by
  have := Config.wf_bounds h
  have := populatedId_iff.mp (Config.wf_imm h).1
  omega

/-- The sentinel's id is not populated (R143). -/
theorem sentinel_not_populated {c : Config} (h : c.wf = true) : c.populatedId c.sentinelId = false := by
  have := Config.wf_bounds h
  by_contra hp
  rw [Bool.not_eq_false, populatedId_iff] at hp
  omega

/-- Every arity of the table is at most 3 (R91). -/
theorem arityId_le {c : Config} (h : c.wf = true) (id : Nat) : c.arityId id ≤ 3 := by
  have := Config.wf_bounds h
  unfold Config.arityId
  split_ifs with h1
  · exact Config.wf_low h ⟨id, h1⟩
  all_goals first | omega | decide

end Sys2Proof
end

