-- ==== Sys2Proof/Laws/Decode.lean ====
section
/-!
SUPPORT. What the decoder can answer, said once: which words it takes and from which it makes the instruction.
-/

namespace Sys2Proof

/-- No id at or above 39 is in the low block (R94). -/
theorem lowInstr_none {n : Nat} (h : 39 ≤ n) : lowInstr n = none := by
  unfold lowInstr
  split <;> first | rfl | omega

/-- A number up to 511 is the 9-bit id of that value. -/
theorem toNat_ofNat9 {n : Nat} (h : n ≤ 511) : (BitVec.ofNat 9 n).toNat = n := by
  rw [BitVec.toNat_ofNat]; omega

/-- Every instruction the decoder answers is made of the first word's fields, the operand word exactly when k ≥ 1, the
immediate word exactly for IMM_COPY_ID, in that order, and the rest is what follows them (R44, R63, R64). -/
theorem decode_cons_eq_ok {c : Config} {w : Word} {ws rest : List Word} {i : Instr}
    (h : decode c (w :: ws) = .ok (i, rest)) :
    ∃ ow imm, i = instrOf c (opcodeField w) (headField w) ow imm ∧ ws = ow.toList ++ (imm.toList ++ rest) ∧
      ow.isSome = decide (1 ≤ regCount (c.arity (opcodeField w)) (headField w)) ∧
      imm.isSome = c.isImmCopy (opcodeField w) := by
  simp only [decode] at h
  split at h
  · simp at h
  · rename_i ow r1 h1
    split at h
    · simp at h
    · rename_i imm r2 h2
      simp at h
      obtain ⟨e1, e2⟩ := takeWord_some h1
      obtain ⟨e3, e4⟩ := takeWord_some h2
      exact ⟨ow, imm, h.1.symm, by rw [e1, e3, h.2], e2, e4⟩

end Sys2Proof
end

