-- ==== Sys2Proof/Laws/State.lean ====
section
/-!
SUPPORT. The field lemmas of every record update of the state: one lemma per field per update.
-/

namespace Sys2Proof.Machine

@[simp] theorem takeFault_cfg (s : State) (f : FaultRecord) : (s.takeFault f).cfg = s.cfg := rfl
@[simp] theorem takeFault_mem (s : State) (f : FaultRecord) : (s.takeFault f).mem = s.mem := rfl
@[simp] theorem takeFault_code (s : State) (f : FaultRecord) : (s.takeFault f).code = s.code := rfl
@[simp] theorem takeFault_cur (s : State) (f : FaultRecord) : (s.takeFault f).cur = s.cur := rfl
@[simp] theorem takeFault_st (s : State) (f : FaultRecord) : (s.takeFault f).st = .fault := rfl
@[simp] theorem takeFault_finfo (s : State) (f : FaultRecord) : (s.takeFault f).finfo = some f := rfl
@[simp] theorem takeFault_out (s : State) (f : FaultRecord) : (s.takeFault f).out = s.out := rfl

@[simp] theorem commit_error (s : State) (f : FaultRecord) : s.commit (.error f) = s.takeFault f := rfl
@[simp] theorem commit_cfg (s : State) (r : Except FaultRecord Decoded) : (s.commit r).cfg = s.cfg := by
  cases r <;> rfl
@[simp] theorem commit_mem (s : State) (r : Except FaultRecord Decoded) : (s.commit r).mem = s.mem := by
  cases r <;> rfl
@[simp] theorem commit_code (s : State) (r : Except FaultRecord Decoded) : (s.commit r).code = s.code := by
  cases r <;> rfl
@[simp] theorem commit_ok_cur (s : State) (d : Decoded) : (s.commit (.ok d)).cur = s.cur + d.size := rfl
@[simp] theorem commit_ok_st (s : State) (d : Decoded) : (s.commit (.ok d)).st = s.st := rfl
@[simp] theorem commit_ok_finfo (s : State) (d : Decoded) : (s.commit (.ok d)).finfo = s.finfo := rfl
@[simp] theorem commit_ok_out (s : State) (d : Decoded) : (s.commit (.ok d)).out = s.out ++ [d] := rfl

@[simp] theorem resetFrom_cfg (s : State) : s.resetFrom.cfg = s.cfg := rfl
@[simp] theorem resetFrom_mem (s : State) : s.resetFrom.mem = s.mem := rfl
@[simp] theorem resetFrom_code (s : State) : s.resetFrom.code = s.code := rfl
@[simp] theorem resetFrom_cur (s : State) : s.resetFrom.cur = 0 := rfl
@[simp] theorem resetFrom_st (s : State) : s.resetFrom.st = .run := rfl
@[simp] theorem resetFrom_finfo (s : State) : s.resetFrom.finfo = none := rfl
@[simp] theorem resetFrom_out (s : State) : s.resetFrom.out = [] := rfl

@[simp] theorem loadRegion_cfg (s : State) (off : Nat) (ws : List Word) : (s.loadRegion off ws).cfg = s.cfg := rfl
@[simp] theorem loadRegion_mem (s : State) (off : Nat) (ws : List Word) :
    (s.loadRegion off ws).mem = s.mem.writeWords s.cfg.byteOrder off ws := rfl
@[simp] theorem loadRegion_code (s : State) (off : Nat) (ws : List Word) :
    (s.loadRegion off ws).code = some ⟨off, .ofNat 16 ws.length⟩ := rfl
@[simp] theorem loadRegion_cur (s : State) (off : Nat) (ws : List Word) : (s.loadRegion off ws).cur = s.cur := rfl
@[simp] theorem loadRegion_st (s : State) (off : Nat) (ws : List Word) : (s.loadRegion off ws).st = s.st := rfl
@[simp] theorem loadRegion_finfo (s : State) (off : Nat) (ws : List Word) :
    (s.loadRegion off ws).finfo = s.finfo := rfl
@[simp] theorem loadRegion_out (s : State) (off : Nat) (ws : List Word) : (s.loadRegion off ws).out = s.out := rfl

@[simp] theorem placeWords_cfg (s : State) (ws : List Word) : (placeWords s ws).cfg = s.cfg := rfl
@[simp] theorem placeWords_cur (s : State) (ws : List Word) : (placeWords s ws).cur = placeCursor s := rfl
@[simp] theorem placeWords_st (s : State) (ws : List Word) : (placeWords s ws).st = .run := rfl
@[simp] theorem placeWords_finfo (s : State) (ws : List Word) : (placeWords s ws).finfo = s.finfo := rfl
@[simp] theorem placeWords_out (s : State) (ws : List Word) : (placeWords s ws).out = s.out := rfl

/-- LEN of a state whose region is present. -/
theorem len_of_code {s : State} {v : CodeView} (h : s.code = some v) : s.len = v.len.toNat := by
  simp [State.len, h]

end Sys2Proof.Machine
end

