-- ==== Sys2Proof/Laws/Memory.lean ====
section
/-!
SUPPORT. The laws of memory: what a byte reads after a write, that every memory operation keeps the canonical form, and
that the words supplied are the words the block reads.
-/

namespace Sys2Proof.Machine

/-- Every entry of a memory lies at or above a bound. -/
abbrev Memory.above (m : Memory) (lo : Nat) : Prop := ∀ cell ∈ m, lo < cell.1

theorem Memory.wf_nil : Memory.wf [] := ⟨List.Pairwise.nil, by simp⟩

theorem Memory.wf_cons {x : Nat} {y : Byte} {m : Memory} :
    Memory.wf ((x, y) :: m) ↔ Memory.above m x ∧ y ≠ Memory.unlisted ∧ Memory.wf m := by
  simp only [Memory.wf, List.pairwise_cons, List.mem_cons, forall_eq_or_imp, Memory.above]
  tauto

theorem Memory.above_write {m : Memory} {lo a : Nat} {b : Byte} (h : m.above lo) (ha : lo < a) :
    (m.write a b).above lo := by
  induction m with
  | nil => unfold Memory.write; split <;> simp [Memory.above, ha]
  | cons cell rest ih =>
    obtain ⟨x, y⟩ := cell
    have hr : Memory.above rest lo := fun c hc => h c (List.mem_cons_of_mem _ hc)
    have hx : lo < x := h (x, y) (by simp)
    unfold Memory.write
    split_ifs <;> simp only [Memory.above, List.mem_cons, forall_eq_or_imp] <;>
      first
        | exact ⟨hx, ih hr⟩
        | exact ⟨ha, hx, hr⟩
        | exact ⟨ha, hr⟩
        | exact ⟨hx, hr⟩
        | exact hr

/-- A byte write keeps the canonical form. -/
theorem Memory.write_wf {m : Memory} {a : Nat} {b : Byte} (h : m.wf) : (m.write a b).wf := by
  induction m with
  | nil => unfold Memory.write; split <;> simp_all [Memory.wf]
  | cons cell rest ih =>
    obtain ⟨x, y⟩ := cell
    obtain ⟨hab, hy, hr⟩ := Memory.wf_cons.mp h
    unfold Memory.write
    split_ifs with h1 h2 h3 h4
    · exact Memory.wf_cons.mpr ⟨Memory.above_write hab h1, hy, ih hr⟩
    · exact hr
    · exact Memory.wf_cons.mpr ⟨h2 ▸ hab, h3, hr⟩
    · exact h
    · refine Memory.wf_cons.mpr ⟨?_, h4, h⟩
      have hax : a < x := by omega
      simp only [Memory.above, List.mem_cons, forall_eq_or_imp]
      exact ⟨hax, fun c hc => Nat.lt_trans hax (hab c hc)⟩

theorem Memory.read_of_above {m : Memory} {a : Nat} (h : m.above a) : m.read a = Memory.unlisted := by
  induction m with
  | nil => rfl
  | cons cell rest ih =>
    obtain ⟨x, y⟩ := cell
    have hx : a < x := h (x, y) (by simp)
    rw [Memory.read, if_neg (by omega)]
    exact ih fun c hc => h c (List.mem_cons_of_mem _ hc)

theorem Memory.read_cons (x : Nat) (y : Byte) (m : Memory) (a : Nat) :
    Memory.read ((x, y) :: m) a = if a = x then y else Memory.read m a := by
  rw [Memory.read]; split_ifs <;> first | rfl | omega

/-- What a byte reads after a byte write: the byte written at its address, the old byte everywhere else. -/
theorem Memory.read_write {m : Memory} {a : Nat} {b : Byte} (h : m.wf) (x : Nat) :
    (m.write a b).read x = if x = a then b else m.read x := by
  induction m with
  | nil =>
    unfold Memory.write
    by_cases hb : b = Memory.unlisted
    · rw [if_pos hb, hb]; split_ifs <;> rfl
    · rw [if_neg hb, Memory.read_cons]
  | cons cell rest ih =>
    obtain ⟨y, v⟩ := cell
    obtain ⟨hab, -, hr⟩ := Memory.wf_cons.mp h
    have hlow : ∀ z, z ≤ y → Memory.read rest z = Memory.unlisted := fun z hz =>
      Memory.read_of_above fun c hc => Nat.lt_of_le_of_lt hz (hab c hc)
    unfold Memory.write
    by_cases h1 : y < a
    · rw [if_pos h1, Memory.read_cons, Memory.read_cons, ih hr]
      split_ifs <;> first | rfl | omega
    · rw [if_neg h1]
      by_cases h2 : y = a
      · subst h2
        rw [if_pos rfl, Memory.read_cons]
        by_cases hb : b = Memory.unlisted
        · rw [if_pos hb]
          by_cases hx : x = y
          · rw [if_pos hx, hb, hlow x (by omega)]
          · rw [if_neg hx, if_neg hx]
        · rw [if_neg hb, Memory.read_cons]
          split_ifs <;> rfl
      · rw [if_neg h2, Memory.read_cons]
        by_cases hb : b = Memory.unlisted
        · rw [if_pos hb, Memory.read_cons]
          by_cases hx : x = a
          · rw [if_pos hx, if_neg (by omega), hb, hlow x (by omega)]
          · rw [if_neg hx]
        · rw [if_neg hb, Memory.read_cons, Memory.read_cons]

theorem Memory.writeWord_wf {m : Memory} {o : ByteOrder} {a : Nat} {w : Word} (h : m.wf) :
    (m.writeWord o a w).wf := Memory.write_wf (Memory.write_wf h)

theorem Memory.writeWords_wf {m : Memory} {o : ByteOrder} {a : Nat} {ws : List Word} (h : m.wf) :
    (m.writeWords o a ws).wf := by
  induction ws generalizing m a with
  | nil => exact h
  | cons w rest ih => exact ih (Memory.writeWord_wf h)

/-- A word survives being cut into bytes and put together again, in either byte order. -/
theorem wordOfBytes_bytesOfWord (o : ByteOrder) (w : Word) :
    wordOfBytes o (bytesOfWord o w).1 (bytesOfWord o w).2 = w := by
  cases o <;> simp only [wordOfBytes, bytesOfWord] <;> ext i hi <;>
    simp only [BitVec.getElem_or, BitVec.getElem_setWidth, BitVec.getElem_shiftLeft, BitVec.getLsbD_extractLsb'] <;>
    by_cases h8 : i < 8 <;> simp [h8, hi, BitVec.getLsbD_eq_getElem] <;> grind

theorem Memory.readWord_writeWord {m : Memory} {o : ByteOrder} {a : Nat} {w : Word} (h : m.wf) :
    (m.writeWord o a w).readWord o a = w := by
  simp only [Memory.readWord, Memory.writeWord, Memory.read_write (Memory.write_wf h), Memory.read_write h]
  simp [wordOfBytes_bytesOfWord]

/-- A byte outside the two written keeps its value. -/
theorem Memory.read_writeWord_of_ne {m : Memory} {o : ByteOrder} {a x : Nat} {w : Word} (h : m.wf) (h1 : x ≠ a)
    (h2 : x ≠ a + 1) : (m.writeWord o a w).read x = m.read x := by
  simp only [Memory.writeWord, Memory.read_write (Memory.write_wf h), Memory.read_write h, if_neg h1, if_neg h2]

/-- A byte below or above the words written keeps its value. -/
theorem Memory.read_writeWords_of_ne {m : Memory} {o : ByteOrder} {a x : Nat} {ws : List Word} (h : m.wf)
    (hx : x < a ∨ a + 2 * ws.length ≤ x) : (m.writeWords o a ws).read x = m.read x := by
  induction ws generalizing m a with
  | nil => rfl
  | cons w rest ih =>
    rw [Memory.writeWords, ih (Memory.writeWord_wf h) (by simp only [List.length_cons] at hx; omega)]
    simp only [List.length_cons] at hx
    exact Memory.read_writeWord_of_ne h (by omega) (by omega)

/-- The word of place `i` among consecutive words written reads as that word. -/
theorem Memory.readWord_writeWords {m : Memory} {o : ByteOrder} {a : Nat} {ws : List Word} (h : m.wf) {i : Nat}
    (hi : i < ws.length) : (m.writeWords o a ws).readWord o (a + 2 * i) = ws[i] := by
  induction ws generalizing m a i with
  | nil => simp at hi
  | cons w rest ih =>
    rw [Memory.writeWords]
    cases i with
    | zero =>
      have e : ∀ x, x < a + 2 → (Memory.writeWords (m.writeWord o a w) o (a + 2) rest).read x =
          (m.writeWord o a w).read x := fun x hx =>
        Memory.read_writeWords_of_ne (Memory.writeWord_wf h) (Or.inl hx)
      have := Memory.readWord_writeWord (o := o) (a := a) (w := w) h
      simp only [Memory.readWord, Nat.mul_zero, Nat.add_zero, List.getElem_cons_zero] at this ⊢
      rw [e a (by omega), e (a + 1) (by omega), this]
    | succ j =>
      have := ih (Memory.writeWord_wf (o := o) (a := a) (w := w) h) (a := a + 2) (i := j) (by simpa using hi)
      rw [show a + 2 * (j + 1) = a + 2 + 2 * j by omega, this, List.getElem_cons_succ]

end Sys2Proof.Machine
end

