-- ==== Sys2Proof/Laws/Ops.lean ====
section
/-!
SUPPORT. One lemma per shared operation that says all it can do: `trailingWord`, `decodeFields`, `emitAs`, `exec`, `step`.
Later proofs cite these and do not unfold the operations again.
-/

namespace Sys2Proof.Machine

/-- Every arm of `exec` is the shared operation on the instruction's own opcode, fields and words. -/
theorem exec_eq_emitAs (i : Instr) (s : State) : exec i s = emitAs (i.opcode s.cfg) i.head i.opword i.imm s := by
  cases i <;> rfl

@[simp] theorem trailingWord_false (p len : Nat) (w : Option Word) : trailingWord false p len w = some (none, p) := rfl
@[simp] theorem trailingWord_none (p len : Nat) : trailingWord true p len none = none := rfl
theorem trailingWord_some_of_lt {p len : Nat} (w : Word) (h : p < len) :
    trailingWord true p len (some w) = some (some w, p + 1) := by simp [trailingWord, h]
theorem trailingWord_of_le {p len : Nat} (w : Option Word) (h : len ≤ p) : trailingWord true p len w = none := by
  cases w <;> simp [trailingWord, h]

/-- What an accepted trailing word can be: the word itself and the next index when needed, nothing when not. -/
theorem trailingWord_eq_some {b : Bool} {p len q : Nat} {w x : Option Word} (h : trailingWord b p len w = some (x, q)) :
    (b = false ∧ x = none ∧ q = p) ∨ (b = true ∧ x = w ∧ x.isSome = true ∧ p < len ∧ q = p + 1) := by
  cases b with
  | false => simp at h; exact Or.inl ⟨rfl, h.1.symm, h.2.symm⟩
  | true =>
    cases w with
    | none => simp at h
    | some w =>
      by_cases hp : p < len
      · rw [trailingWord_some_of_lt w hp] at h
        simp at h
        exact Or.inr ⟨rfl, h.1.symm, by simp [← h.1], hp, h.2.symm⟩
      · rw [trailingWord_of_le _ (by omega)] at h; simp at h

/-- An instruction whose words are all there and fit decodes to its record (R65, R67). -/
theorem decodeFields_ok {c : Config} {len pos : Nat} {op : OpId} {h : Head} {ow imm : Option Word}
    (how : ow.isSome = decide (1 ≤ regCount (c.arity op) h)) (himm : imm.isSome = c.isImmCopy op)
    (hfit : pos + sizeOfShape (regCount (c.arity op) h) (c.isImmCopy op) ≤ len) :
    decodeFields c len pos op h ow imm = .ok (recordOf c pos op h ow imm) := by
  unfold decodeFields
  have h1 := (sizeOfShape_bounds (regCount (c.arity op) h) (c.isImmCopy op)).1
  rw [if_neg (by omega)]
  unfold sizeOfShape at hfit
  by_cases hk : 1 ≤ regCount (c.arity op) h
  · rw [if_pos hk] at hfit
    rw [decide_eq_true hk, Option.isSome_iff_exists] at how
    obtain ⟨w, rfl⟩ := how
    rw [decide_eq_true hk, trailingWord_some_of_lt w (by omega)]
    cases hi : c.isImmCopy op <;> rw [hi] at himm hfit
    · simp_all
    · obtain ⟨x, rfl⟩ := Option.isSome_iff_exists.mp himm
      simp [trailingWord_some_of_lt x (show pos + 1 + 1 < len by simp at hfit; omega)]
  · rw [if_neg hk] at hfit
    rw [decide_eq_false hk] at how ⊢
    obtain rfl : ow = none := by simpa using how
    cases hi : c.isImmCopy op <;> rw [hi] at himm hfit
    · simp_all
    · obtain ⟨x, rfl⟩ := Option.isSome_iff_exists.mp himm
      simp [trailingWord_some_of_lt x (show pos + 1 < len by simp at hfit; omega)]

/-- An instruction whose words are all there but reach past the region's end is truncated, and the missing index is LEN
(R65, R149). -/
theorem decodeFields_truncated {c : Config} {len pos : Nat} {op : OpId} {h : Head} {ow imm : Option Word}
    (how : ow.isSome = decide (1 ≤ regCount (c.arity op) h)) (hpos : pos < len)
    (hfit : len < pos + sizeOfShape (regCount (c.arity op) h) (c.isImmCopy op)) :
    decodeFields c len pos op h ow imm = .error (truncatedFault pos len len) := by
  unfold decodeFields
  rw [if_neg (by omega)]
  unfold sizeOfShape at hfit
  by_cases hk : 1 ≤ regCount (c.arity op) h
  · rw [if_pos hk] at hfit
    rw [decide_eq_true hk]
    by_cases h1 : pos + 1 < len
    · have hi : c.isImmCopy op = true := by
        cases hi : c.isImmCopy op
        · rw [hi] at hfit; simp at hfit; omega
        · rfl
      rw [hi] at hfit
      obtain rfl : len = pos + 1 + 1 := by simp at hfit; omega
      rw [decide_eq_true hk, Option.isSome_iff_exists] at how
      obtain ⟨w, rfl⟩ := how
      rw [trailingWord_some_of_lt w h1]
      simp only [hi, trailingWord_of_le imm (Nat.le_refl _)]
    · obtain rfl : len = pos + 1 := by omega
      rw [trailingWord_of_le ow (Nat.le_refl _)]
  · rw [if_neg hk] at hfit
    have hi : c.isImmCopy op = true := by
      cases hi : c.isImmCopy op
      · rw [hi] at hfit; simp at hfit; omega
      · rfl
    rw [hi] at hfit
    obtain rfl : len = pos + 1 := by simp at hfit; omega
    rw [decide_eq_false hk]
    simp only [trailingWord_false, hi, trailingWord_of_le imm (Nat.le_refl _)]

/-- All that `decodeFields` can do: fault at a cursor at or beyond LEN, fault at a trailing word, or answer the record. -/
theorem decodeFields_cases (c : Config) (len pos : Nat) (op : OpId) (h : Head) (ow imm : Option Word) :
    (len ≤ pos ∧ decodeFields c len pos op h ow imm = .error (cursorFault pos len)) ∨
    (pos < len ∧ ∃ m, decodeFields c len pos op h ow imm = .error (truncatedFault pos m len)) ∨
    (pos + sizeOfShape (regCount (c.arity op) h) (c.isImmCopy op) ≤ len ∧
      ∃ ow' imm', ow'.isSome = decide (1 ≤ regCount (c.arity op) h) ∧ imm'.isSome = c.isImmCopy op ∧
        (ow'.isSome = true → ow' = ow) ∧ (imm'.isSome = true → imm' = imm) ∧
        decodeFields c len pos op h ow imm = .ok (recordOf c pos op h ow' imm')) := by
  unfold decodeFields
  by_cases hp : len ≤ pos
  · exact Or.inl ⟨hp, if_pos hp⟩
  right
  rw [if_neg hp]
  cases ho : trailingWord (decide (1 ≤ regCount (c.arity op) h)) (pos + 1) len ow with
  | none => exact Or.inl ⟨by omega, _, rfl⟩
  | some oq =>
    obtain ⟨ow', q⟩ := oq
    dsimp only
    cases hi : trailingWord (c.isImmCopy op) q len imm with
    | none => exact Or.inl ⟨by omega, _, rfl⟩
    | some ir =>
      obtain ⟨imm', r⟩ := ir
      refine Or.inr ⟨?_, ow', imm', ?_, ?_, ?_, ?_, rfl⟩
      all_goals
        unfold sizeOfShape at *
        rcases trailingWord_eq_some ho with ⟨hb, rfl, rfl⟩ | ⟨hb, rfl, hs, hlt, rfl⟩ <;>
          rcases trailingWord_eq_some hi with ⟨hb', rfl, rfl⟩ | ⟨hb', rfl, hs', hlt', rfl⟩ <;>
            simp_all <;> omega

/-- The shared operation with a region present. -/
theorem emitAs_present {s : State} {v : CodeView} (hv : s.code = some v) (op : OpId) (h : Head) (ow imm : Option Word) :
    emitAs op h ow imm s = .next (s.commit (decodeFields s.cfg v.len.toNat s.cur op h ow imm)) := by
  simp only [emitAs, hv]

/-- The shared operation with no region takes NoCodeRegion (R150). -/
theorem emitAs_absent {s : State} (hv : s.code = none) (op : OpId) (h : Head) (ow imm : Option Word) :
    emitAs op h ow imm s = .next (s.takeFault noRegionFault) := by
  simp only [emitAs, hv]

/-- All that the shared operation can do: it always answers a next state, which either takes a fault or commits one
record of the cursor's instruction that fits the region. -/
theorem emitAs_cases (op : OpId) (h : Head) (ow imm : Option Word) (s : State) :
    (∃ f, emitAs op h ow imm s = .next (s.takeFault f)) ∨
    (∃ d, emitAs op h ow imm s = .next (s.commit (.ok d)) ∧ d.pos = s.cur ∧ d.op = op ∧
      d.size = sizeOfShape (regCount (s.cfg.arity op) h) (s.cfg.isImmCopy op) ∧ s.cur + d.size ≤ s.len) := by
  cases hv : s.code with
  | none => exact Or.inl ⟨_, emitAs_absent hv op h ow imm⟩
  | some v =>
    rw [emitAs_present hv, len_of_code hv]
    rcases decodeFields_cases s.cfg v.len.toNat s.cur op h ow imm with
      ⟨-, e⟩ | ⟨-, m, e⟩ | ⟨hfit, ow', imm', -, -, -, -, e⟩
    · exact Or.inl ⟨_, by rw [e, commit_error]⟩
    · exact Or.inl ⟨_, by rw [e, commit_error]⟩
    · exact Or.inr ⟨_, by rw [e], rfl, rfl, rfl, hfit⟩

/-- `exec` always answers a next state, and leaves the configuration, the memory and the region as they are. -/
theorem exec_frame (i : Instr) (s : State) :
    ∃ t, exec i s = .next t ∧ t.cfg = s.cfg ∧ t.mem = s.mem ∧ t.code = s.code := by
  rw [exec_eq_emitAs]
  rcases emitAs_cases (i.opcode s.cfg) i.head i.opword i.imm s with ⟨f, e⟩ | ⟨d, e, -⟩ <;>
    exact ⟨_, e, by simp, by simp, by simp⟩

/-- All that a step with a next state can be: the configuration is well formed, ST = RUN, and it takes NoCodeRegion, ends
the sweep, runs the decoded instruction, or takes the fault of a decode rejection (R82). -/
theorem step_cases {s t : State} (h : step s = .next t) : s.cfg.wf = true ∧ s.st = .run ∧
    ((s.code = none ∧ t = s.takeFault noRegionFault) ∨
     ∃ v, s.code = some v ∧
      ((s.cur = v.len.toNat ∧ t = { s with st := .done }) ∨
       (s.cur ≠ v.len.toNat ∧ ∃ i, s.fetch = .ok i ∧ exec i s = .next t) ∨
       (s.cur ≠ v.len.toNat ∧ ∃ e, s.fetch = .error e ∧ t = s.takeFault (rejectFault e s.cur v.len.toNat)))) := by
  unfold step sweepStep at h
  cases hc : s.cfg.failedCheck with
  | some k => rw [hc] at h; simp at h
  | none =>
    rw [hc] at h
    refine ⟨Config.failedCheck_eq_none.mp hc, ?_⟩
    cases hst : s.st <;> rw [hst] at h <;> simp only [reduceCtorEq] at h
    refine ⟨rfl, ?_⟩
    unfold runStep at h
    cases hv : s.code with
    | none => rw [hv] at h; simp at h; exact Or.inl ⟨rfl, h.symm⟩
    | some v =>
      rw [hv] at h
      refine Or.inr ⟨v, rfl, ?_⟩
      by_cases hcur : s.cur = v.len.toNat
      · simp only [if_pos hcur] at h; injection h with h; exact Or.inl ⟨hcur, h.symm⟩
      · simp only [if_neg hcur] at h
        cases hf : s.fetch with
        | ok i => rw [hf] at h; exact Or.inr (Or.inl ⟨hcur, i, rfl, h⟩)
        | error e => rw [hf] at h; simp at h; exact Or.inr (Or.inr ⟨hcur, e, rfl, h.symm⟩)

/-- A step at a running, well-formed state is the sequencer's running step. -/
theorem step_run {s : State} (hc : s.cfg.wf = true) (hst : s.st = .run) : step s = runStep s := by
  simp only [step, sweepStep, Config.failedCheck_eq_none.mpr hc, hst]

end Sys2Proof.Machine
end

