-- ==== Sys2Proof/Laws/PerInstr.lean ====
section
/-!
SUPPORT. Per-instruction families: statements about one instruction as syntax, with one lemma per constructor of `Instr`.
-/

namespace Sys2Proof.Laws

/-- The words of a well-formed instruction are as many as its size says: 1, plus one operand word iff k ≥ 1, plus one
immediate word iff its opcode is `IMM_COPY_ID` (R44, R66). -/
def EncodeLength.Statement (i : Instr) : Prop :=
  ∀ c : Config, i.wf c = true → (encode c i).length = i.size c

theorem EncodeLength.op0 (h : Head) (ow imm : Option Word) : EncodeLength.Statement (.op0 h ow imm) :=
  fun _ hw => encode_length hw
theorem EncodeLength.op1 (h : Head) (ow imm : Option Word) : EncodeLength.Statement (.op1 h ow imm) :=
  fun _ hw => encode_length hw
theorem EncodeLength.op2 (h : Head) (ow imm : Option Word) : EncodeLength.Statement (.op2 h ow imm) :=
  fun _ hw => encode_length hw
theorem EncodeLength.op3 (h : Head) (ow imm : Option Word) : EncodeLength.Statement (.op3 h ow imm) :=
  fun _ hw => encode_length hw
theorem EncodeLength.op4 (h : Head) (ow imm : Option Word) : EncodeLength.Statement (.op4 h ow imm) :=
  fun _ hw => encode_length hw
theorem EncodeLength.op5 (h : Head) (ow imm : Option Word) : EncodeLength.Statement (.op5 h ow imm) :=
  fun _ hw => encode_length hw
theorem EncodeLength.op6 (h : Head) (ow imm : Option Word) : EncodeLength.Statement (.op6 h ow imm) :=
  fun _ hw => encode_length hw
theorem EncodeLength.op7 (h : Head) (ow imm : Option Word) : EncodeLength.Statement (.op7 h ow imm) :=
  fun _ hw => encode_length hw
theorem EncodeLength.op8 (h : Head) (ow imm : Option Word) : EncodeLength.Statement (.op8 h ow imm) :=
  fun _ hw => encode_length hw
theorem EncodeLength.op9 (h : Head) (ow imm : Option Word) : EncodeLength.Statement (.op9 h ow imm) :=
  fun _ hw => encode_length hw
theorem EncodeLength.op10 (h : Head) (ow imm : Option Word) : EncodeLength.Statement (.op10 h ow imm) :=
  fun _ hw => encode_length hw
theorem EncodeLength.op11 (h : Head) (ow imm : Option Word) : EncodeLength.Statement (.op11 h ow imm) :=
  fun _ hw => encode_length hw
theorem EncodeLength.op12 (h : Head) (ow imm : Option Word) : EncodeLength.Statement (.op12 h ow imm) :=
  fun _ hw => encode_length hw
theorem EncodeLength.op13 (h : Head) (ow imm : Option Word) : EncodeLength.Statement (.op13 h ow imm) :=
  fun _ hw => encode_length hw
theorem EncodeLength.op14 (h : Head) (ow imm : Option Word) : EncodeLength.Statement (.op14 h ow imm) :=
  fun _ hw => encode_length hw
theorem EncodeLength.op15 (h : Head) (ow imm : Option Word) : EncodeLength.Statement (.op15 h ow imm) :=
  fun _ hw => encode_length hw
theorem EncodeLength.op16 (h : Head) (ow imm : Option Word) : EncodeLength.Statement (.op16 h ow imm) :=
  fun _ hw => encode_length hw
theorem EncodeLength.op17 (h : Head) (ow imm : Option Word) : EncodeLength.Statement (.op17 h ow imm) :=
  fun _ hw => encode_length hw
theorem EncodeLength.op18 (h : Head) (ow imm : Option Word) : EncodeLength.Statement (.op18 h ow imm) :=
  fun _ hw => encode_length hw
theorem EncodeLength.op19 (h : Head) (ow imm : Option Word) : EncodeLength.Statement (.op19 h ow imm) :=
  fun _ hw => encode_length hw
theorem EncodeLength.op20 (h : Head) (ow imm : Option Word) : EncodeLength.Statement (.op20 h ow imm) :=
  fun _ hw => encode_length hw
theorem EncodeLength.op21 (h : Head) (ow imm : Option Word) : EncodeLength.Statement (.op21 h ow imm) :=
  fun _ hw => encode_length hw
theorem EncodeLength.op22 (h : Head) (ow imm : Option Word) : EncodeLength.Statement (.op22 h ow imm) :=
  fun _ hw => encode_length hw
theorem EncodeLength.op23 (h : Head) (ow imm : Option Word) : EncodeLength.Statement (.op23 h ow imm) :=
  fun _ hw => encode_length hw
theorem EncodeLength.op24 (h : Head) (ow imm : Option Word) : EncodeLength.Statement (.op24 h ow imm) :=
  fun _ hw => encode_length hw
theorem EncodeLength.op25 (h : Head) (ow imm : Option Word) : EncodeLength.Statement (.op25 h ow imm) :=
  fun _ hw => encode_length hw
theorem EncodeLength.op26 (h : Head) (ow imm : Option Word) : EncodeLength.Statement (.op26 h ow imm) :=
  fun _ hw => encode_length hw
theorem EncodeLength.op27 (h : Head) (ow imm : Option Word) : EncodeLength.Statement (.op27 h ow imm) :=
  fun _ hw => encode_length hw
theorem EncodeLength.op28 (h : Head) (ow imm : Option Word) : EncodeLength.Statement (.op28 h ow imm) :=
  fun _ hw => encode_length hw
theorem EncodeLength.op29 (h : Head) (ow imm : Option Word) : EncodeLength.Statement (.op29 h ow imm) :=
  fun _ hw => encode_length hw
theorem EncodeLength.op30 (h : Head) (ow imm : Option Word) : EncodeLength.Statement (.op30 h ow imm) :=
  fun _ hw => encode_length hw
theorem EncodeLength.op31 (h : Head) (ow imm : Option Word) : EncodeLength.Statement (.op31 h ow imm) :=
  fun _ hw => encode_length hw
theorem EncodeLength.op32 (h : Head) (ow imm : Option Word) : EncodeLength.Statement (.op32 h ow imm) :=
  fun _ hw => encode_length hw
theorem EncodeLength.op33 (h : Head) (ow imm : Option Word) : EncodeLength.Statement (.op33 h ow imm) :=
  fun _ hw => encode_length hw
theorem EncodeLength.op34 (h : Head) (ow imm : Option Word) : EncodeLength.Statement (.op34 h ow imm) :=
  fun _ hw => encode_length hw
theorem EncodeLength.op35 (h : Head) (ow imm : Option Word) : EncodeLength.Statement (.op35 h ow imm) :=
  fun _ hw => encode_length hw
theorem EncodeLength.op36 (h : Head) (ow imm : Option Word) : EncodeLength.Statement (.op36 h ow imm) :=
  fun _ hw => encode_length hw
theorem EncodeLength.op37 (h : Head) (ow imm : Option Word) : EncodeLength.Statement (.op37 h ow imm) :=
  fun _ hw => encode_length hw
theorem EncodeLength.op38 (h : Head) (ow imm : Option Word) : EncodeLength.Statement (.op38 h ow imm) :=
  fun _ hw => encode_length hw
theorem EncodeLength.s1 (h : Head) (ow imm : Option Word) : EncodeLength.Statement (.s1 h ow imm) :=
  fun _ hw => encode_length hw
theorem EncodeLength.s2 (h : Head) (ow imm : Option Word) : EncodeLength.Statement (.s2 h ow imm) :=
  fun _ hw => encode_length hw
theorem EncodeLength.ha (h : Head) (ow imm : Option Word) : EncodeLength.Statement (.ha h ow imm) :=
  fun _ hw => encode_length hw
theorem EncodeLength.hb (h : Head) (ow imm : Option Word) : EncodeLength.Statement (.hb h ow imm) :=
  fun _ hw => encode_length hw
theorem EncodeLength.op66 (h : Head) (ow imm : Option Word) : EncodeLength.Statement (.op66 h ow imm) :=
  fun _ hw => encode_length hw
theorem EncodeLength.hc (h : Head) (ow imm : Option Word) : EncodeLength.Statement (.hc h ow imm) :=
  fun _ hw => encode_length hw
theorem EncodeLength.immCopy (h : Head) (ow imm : Option Word) : EncodeLength.Statement (.immCopy h ow imm) :=
  fun _ hw => encode_length hw
theorem EncodeLength.sentinel (h : Head) : EncodeLength.Statement (.sentinel h) :=
  fun _ hw => encode_length hw
theorem EncodeLength.errorClass (op : OpId) (h : Head) : EncodeLength.Statement (.errorClass op h) :=
  fun _ hw => encode_length hw

end Sys2Proof.Laws
end

