-- ==== Sys2Proof/Laws/Run.lean ====
section
/-!
SUPPORT. What a run of the machine is, one step at a time, so that later proofs never unfold `Host.Core.run`.
-/

namespace Sys2Proof.Machine

/-- A run of `n + 1` steps is one step, then a run of `n`. -/
theorem core_run_succ (M : Host.Core) (n : Nat) (s : M.State) :
    M.run (n + 1) s = match M.step s with
      | .next s' => M.run n s'
      | .fault r => .fault r
      | .refused r => .refused r := by
  cases h : M.step s <;> simp [Host.Core.run, h]

/-- After a step with a next state the run goes on from it. -/
theorem run_succ_of_next {n : Nat} {s s' : State} (h : step s = .next s') :
    core.run (n + 1) s = core.run n s' := by
  have h' : core.step s = .next s' := h
  exact (core_run_succ core n s).trans (by rw [h'])

/-- A run of `n + 1` steps that answers a state took a first step with a next state. -/
theorem run_succ_eq_next {n : Nat} {s t : State} (h : core.run (n + 1) s = .next t) :
    ∃ s', step s = .next s' ∧ core.run n s' = .next t := by
  rw [core_run_succ core n s] at h
  cases hs : core.step s with
  | next s' => rw [hs] at h; exact ⟨s', hs, h⟩
  | fault r => rw [hs] at h; simp at h
  | refused r => rw [hs] at h; simp at h

end Sys2Proof.Machine
end

