-- ==== Sys2Proof/Tests/Slice0.lean ====
section
/-!
SUPPORT. The model's own tests and the witnesses of the statements' hypotheses. Expected results come from the vectors of
spec/95_test_vectors.md and the encoding tables of spec/30_encoding.md, by hand, never from the model. A test is about
fixed values and is no statement for the provers. Every test names its configuration: the spec leaves it open.
-/

namespace Sys2Proof.Tests

open Sys2Proof.Machine

/-! ### Configurations and states of the tests -/

/-- A well-formed configuration: `ARITY_i = i mod 4`, S1 = 41 of arity 1, S2 = 50 of arity 3, HIGH_BASE = 64 (so H_a = 64,
H_b = 65, H_c = 67), SENTINEL_ID = 100, IMM_COPY_ID = 10, MsbFirst, Little. -/
def cfg : Config :=
  { Config.atReset with
    arityLow := Vector.ofFn fun i => i.val % 4
    s1 := 41, s2 := 50, arityS1 := 1, arityS2 := 3
    highBase := 64, sentinelId := 100, immCopyId := 10
    mnemHigh := #v["MNEMONIC_64", "MNEMONIC_65", "MNEMONIC_66", "MNEMONIC_67"] }

/-- The same with the other nibble order and the other byte order. -/
def cfgLsb : Config := { cfg with nibbleOrder := .lsbFirst, byteOrder := .big }

/-- The same with IMM_COPY_ID = 6, so that id 10 is an ordinary opcode. -/
def cfgImm6 : Config := { cfg with immCopyId := 6 }

/-- The same with the highest ids R92 admits: HIGH_BASE = 66, S2 = 65, SENTINEL_ID = 511. -/
def cfgTop : Config := { cfg with s1 := 64, s2 := 65, highBase := 66, sentinelId := 511, immCopyId := 69 }

/-- A state after reset with a region of the given words at an odd byte offset (R36). -/
def at3 (c : Config) (ws : List Word) : State := ({ State.reset with cfg := c } : State).loadRegion 3 ws

/-- The region of that state. -/
def view3 (n : Nat) : CodeView := ⟨3, .ofNat 16 n⟩

/-- The same with the cursor at `p`. -/
def at3From (c : Config) (p : Nat) (ws : List Word) : State := { at3 c ws with cur := p }

/-- What a test looks at in a record. -/
structure SeenRecord where
  op : OpId
  known : Bool
  k : Nat
  regs : List RegIdx
  imm : Option Word
  size : Nat
deriving DecidableEq, Repr

/-- What a test looks at in a next state. -/
structure Seen where
  cur : Nat
  st : Status
  finfo : Option FaultRecord
  out : List SeenRecord
deriving DecidableEq, Repr

/-- The next state of an outcome, as a test looks at it. -/
def seen (r : Host.Outcome State Fault Refusal) : Option Seen :=
  match r with
  | .next s => some ⟨s.cur, s.st, s.finfo, s.out.map fun d => ⟨d.op, d.known, d.k, d.regs, d.imm, d.size⟩⟩
  | _ => none

/-- What a test looks at in an answer of DEC: indices, immediate and size, or the fault record. -/
def decSeen (c : Config) (ws : List Word) (p : Nat) : Except FaultRecord (List RegIdx × Option Word × Nat) :=
  match dec c (at3 c ws).mem (view3 ws.length) p with
  | .ok (d, size) => .ok (d.regs, d.imm, size)
  | .error f => .error f

/-- Did `step` refuse, and by which check? -/
def refusedBy (s : State) : Option ConfigCheck :=
  match step s with
  | .refused (.illFormedConfig k) => some k
  | _ => none

theorem test_cfg_wf : cfg.wf = true := by decide
theorem test_cfgLsb_wf : cfgLsb.wf = true := by decide
theorem test_cfgImm6_wf : cfgImm6.wf = true := by decide
theorem test_cfgTop_wf : cfgTop.wf = true := by decide
theorem test_atReset_wf : Config.atReset.wf = true := by decide

/-! ### Well-formedness: every check refuses an ill-formed term -/

theorem test_wfLow_refuses : refusedBy (at3 { cfg with arityLow := Vector.replicate 39 4 } []) = some .wfLow := by decide
theorem test_wfSingle_refuses_S1_in_low_block : refusedBy (at3 { cfg with s1 := 38 } []) = some .wfSingle := by decide
theorem test_wfSingle_refuses_S2_in_high_block : refusedBy (at3 { cfg with s2 := 64 } []) = some .wfSingle := by decide
theorem test_wfSingle_refuses_arity_4 : refusedBy (at3 { cfg with arityS2 := 4 } []) = some .wfSingle := by decide
theorem test_wfHigh_refuses_62 : refusedBy (at3 { cfg with highBase := 62 } []) = some .wfHigh := by decide
theorem test_wfHigh_refuses_67 : refusedBy (at3 { cfg with highBase := 67 } []) = some .wfHigh := by decide
theorem test_wfSentinel_refuses_inside_high_block : refusedBy (at3 { cfg with sentinelId := 67 } []) = some .wfSentinel := by
  decide
theorem test_wfSentinel_refuses_512 : refusedBy (at3 { cfg with sentinelId := 512 } []) = some .wfSentinel := by decide
theorem test_wfImm_refuses_unpopulated : refusedBy (at3 { cfg with immCopyId := 70 } []) = some .wfImm := by decide
theorem test_wfImm_refuses_arity_3 : refusedBy (at3 { cfg with immCopyId := 11 } []) = some .wfImm := by decide
theorem test_wfRegs_refuses_equal_names :
    refusedBy (at3 { cfg with regNames := #v["A", "B", "C", "D", "E", "A"] } []) = some .wfRegs := by decide

/-- Id 10 is IMM_COPY_ID, so opcode 10's own constructor is not what it decodes to. -/
theorem test_idOk_refuses_overlaid_row : (Instr.op10 ⟨0, 0, 0, 0⟩ (some 0) (some 0)).idOk cfg = false := by decide
theorem test_idOk_refuses_populated_error : (Instr.errorClass 5#9 ⟨0, 0, 0, 0⟩).idOk cfg = false := by decide
theorem test_operandOk_refuses_missing_word : (Instr.op66 ⟨0, 0, 0, 0⟩ none none).operandOk cfg = false := by decide
theorem test_operandOk_refuses_extra_word : (Instr.op66 ⟨2, 3, 0, 0⟩ (some 0) none).operandOk cfg = false := by decide
theorem test_immediateOk_refuses_missing_word : (Instr.immCopy ⟨0, 2, 0, 0⟩ (some 0) none).immediateOk cfg = false := by
  decide
theorem test_immediateOk_refuses_extra_word : (Instr.op66 ⟨2, 2, 0, 0⟩ none (some 0)).immediateOk cfg = false := by decide

/-! ### Decoding: a word written out from the spec's encoding for every constructor

Each word has AFLG0 = 1, AFLG1 = 0, AFLG2 = 1, SIGN = 1 and the id in bits 8..0 (30_encoding.md R46): 0x4600 + id. All
positions below the arity are then in register mode, so the operand word 0x1230 is there exactly when the arity is not 0. -/

theorem test_decode_op0 : decode cfg [0x4600#16] = .ok (.op0 ⟨1, 0, 1, 1⟩ none none, []) := by decide
theorem test_decode_op1 : decode cfg [0x4601#16, 0x1230#16] = .ok (.op1 ⟨1, 0, 1, 1⟩ (some 0x1230#16) none, []) := by decide
theorem test_decode_op2 : decode cfg [0x4602#16, 0x1230#16] = .ok (.op2 ⟨1, 0, 1, 1⟩ (some 0x1230#16) none, []) := by decide
theorem test_decode_op3 : decode cfg [0x4603#16, 0x1230#16] = .ok (.op3 ⟨1, 0, 1, 1⟩ (some 0x1230#16) none, []) := by decide
theorem test_decode_op4 : decode cfg [0x4604#16] = .ok (.op4 ⟨1, 0, 1, 1⟩ none none, []) := by decide
theorem test_decode_op5 : decode cfg [0x4605#16, 0x1230#16] = .ok (.op5 ⟨1, 0, 1, 1⟩ (some 0x1230#16) none, []) := by decide
theorem test_decode_op6 : decode cfg [0x4606#16, 0x1230#16] = .ok (.op6 ⟨1, 0, 1, 1⟩ (some 0x1230#16) none, []) := by decide
theorem test_decode_op7 : decode cfg [0x4607#16, 0x1230#16] = .ok (.op7 ⟨1, 0, 1, 1⟩ (some 0x1230#16) none, []) := by decide
theorem test_decode_op8 : decode cfg [0x4608#16] = .ok (.op8 ⟨1, 0, 1, 1⟩ none none, []) := by decide
theorem test_decode_op9 : decode cfg [0x4609#16, 0x1230#16] = .ok (.op9 ⟨1, 0, 1, 1⟩ (some 0x1230#16) none, []) := by decide
theorem test_decode_op10 : decode cfgImm6 [0x460A#16, 0x1230#16] = .ok (.op10 ⟨1, 0, 1, 1⟩ (some 0x1230#16) none, []) := by decide
theorem test_decode_op11 : decode cfg [0x460B#16, 0x1230#16] = .ok (.op11 ⟨1, 0, 1, 1⟩ (some 0x1230#16) none, []) := by decide
theorem test_decode_op12 : decode cfg [0x460C#16] = .ok (.op12 ⟨1, 0, 1, 1⟩ none none, []) := by decide
theorem test_decode_op13 : decode cfg [0x460D#16, 0x1230#16] = .ok (.op13 ⟨1, 0, 1, 1⟩ (some 0x1230#16) none, []) := by decide
theorem test_decode_op14 : decode cfg [0x460E#16, 0x1230#16] = .ok (.op14 ⟨1, 0, 1, 1⟩ (some 0x1230#16) none, []) := by decide
theorem test_decode_op15 : decode cfg [0x460F#16, 0x1230#16] = .ok (.op15 ⟨1, 0, 1, 1⟩ (some 0x1230#16) none, []) := by decide
theorem test_decode_op16 : decode cfg [0x4610#16] = .ok (.op16 ⟨1, 0, 1, 1⟩ none none, []) := by decide
theorem test_decode_op17 : decode cfg [0x4611#16, 0x1230#16] = .ok (.op17 ⟨1, 0, 1, 1⟩ (some 0x1230#16) none, []) := by decide
theorem test_decode_op18 : decode cfg [0x4612#16, 0x1230#16] = .ok (.op18 ⟨1, 0, 1, 1⟩ (some 0x1230#16) none, []) := by decide
theorem test_decode_op19 : decode cfg [0x4613#16, 0x1230#16] = .ok (.op19 ⟨1, 0, 1, 1⟩ (some 0x1230#16) none, []) := by decide
theorem test_decode_op20 : decode cfg [0x4614#16] = .ok (.op20 ⟨1, 0, 1, 1⟩ none none, []) := by decide
theorem test_decode_op21 : decode cfg [0x4615#16, 0x1230#16] = .ok (.op21 ⟨1, 0, 1, 1⟩ (some 0x1230#16) none, []) := by decide
theorem test_decode_op22 : decode cfg [0x4616#16, 0x1230#16] = .ok (.op22 ⟨1, 0, 1, 1⟩ (some 0x1230#16) none, []) := by decide
theorem test_decode_op23 : decode cfg [0x4617#16, 0x1230#16] = .ok (.op23 ⟨1, 0, 1, 1⟩ (some 0x1230#16) none, []) := by decide
theorem test_decode_op24 : decode cfg [0x4618#16] = .ok (.op24 ⟨1, 0, 1, 1⟩ none none, []) := by decide
theorem test_decode_op25 : decode cfg [0x4619#16, 0x1230#16] = .ok (.op25 ⟨1, 0, 1, 1⟩ (some 0x1230#16) none, []) := by decide
theorem test_decode_op26 : decode cfg [0x461A#16, 0x1230#16] = .ok (.op26 ⟨1, 0, 1, 1⟩ (some 0x1230#16) none, []) := by decide
theorem test_decode_op27 : decode cfg [0x461B#16, 0x1230#16] = .ok (.op27 ⟨1, 0, 1, 1⟩ (some 0x1230#16) none, []) := by decide
theorem test_decode_op28 : decode cfg [0x461C#16] = .ok (.op28 ⟨1, 0, 1, 1⟩ none none, []) := by decide
theorem test_decode_op29 : decode cfg [0x461D#16, 0x1230#16] = .ok (.op29 ⟨1, 0, 1, 1⟩ (some 0x1230#16) none, []) := by decide
theorem test_decode_op30 : decode cfg [0x461E#16, 0x1230#16] = .ok (.op30 ⟨1, 0, 1, 1⟩ (some 0x1230#16) none, []) := by decide
theorem test_decode_op31 : decode cfg [0x461F#16, 0x1230#16] = .ok (.op31 ⟨1, 0, 1, 1⟩ (some 0x1230#16) none, []) := by decide
theorem test_decode_op32 : decode cfg [0x4620#16] = .ok (.op32 ⟨1, 0, 1, 1⟩ none none, []) := by decide
theorem test_decode_op33 : decode cfg [0x4621#16, 0x1230#16] = .ok (.op33 ⟨1, 0, 1, 1⟩ (some 0x1230#16) none, []) := by decide
theorem test_decode_op34 : decode cfg [0x4622#16, 0x1230#16] = .ok (.op34 ⟨1, 0, 1, 1⟩ (some 0x1230#16) none, []) := by decide
theorem test_decode_op35 : decode cfg [0x4623#16, 0x1230#16] = .ok (.op35 ⟨1, 0, 1, 1⟩ (some 0x1230#16) none, []) := by decide
theorem test_decode_op36 : decode cfg [0x4624#16] = .ok (.op36 ⟨1, 0, 1, 1⟩ none none, []) := by decide
theorem test_decode_op37 : decode cfg [0x4625#16, 0x1230#16] = .ok (.op37 ⟨1, 0, 1, 1⟩ (some 0x1230#16) none, []) := by decide
theorem test_decode_op38 : decode cfg [0x4626#16, 0x1230#16] = .ok (.op38 ⟨1, 0, 1, 1⟩ (some 0x1230#16) none, []) := by decide
theorem test_decode_s1 : decode cfg [0x4629#16, 0x1230#16] = .ok (.s1 ⟨1, 0, 1, 1⟩ (some 0x1230#16) none, []) := by decide
theorem test_decode_s2 : decode cfg [0x4632#16, 0x1230#16] = .ok (.s2 ⟨1, 0, 1, 1⟩ (some 0x1230#16) none, []) := by decide
theorem test_decode_ha : decode cfg [0x4640#16, 0x1230#16] = .ok (.ha ⟨1, 0, 1, 1⟩ (some 0x1230#16) none, []) := by decide
theorem test_decode_hb : decode cfg [0x4641#16, 0x1230#16] = .ok (.hb ⟨1, 0, 1, 1⟩ (some 0x1230#16) none, []) := by decide
theorem test_decode_op66 : decode cfg [0x4642#16, 0x1230#16] = .ok (.op66 ⟨1, 0, 1, 1⟩ (some 0x1230#16) none, []) := by decide
theorem test_decode_hc : decode cfg [0x4643#16, 0x1230#16] = .ok (.hc ⟨1, 0, 1, 1⟩ (some 0x1230#16) none, []) := by decide
theorem test_decode_immCopy : decode cfg [0x460A#16, 0x1230#16, 0xBEEF#16] =
    .ok (.immCopy ⟨1, 0, 1, 1⟩ (some 0x1230#16) (some 0xBEEF#16), []) := by decide
theorem test_decode_sentinel : decode cfg [0x4664#16, 0x1230#16] = .ok (.sentinel ⟨1, 0, 1, 1⟩, [0x1230#16]) := by decide
theorem test_decode_errorClass : decode cfg [0xFFFF#16] = .ok (.errorClass 511#9 ⟨3, 3, 3, 1⟩, []) := by decide
theorem test_decode_highBase_66 : decode cfgTop [0x0045#16, 0x0120#16, 0xBEEF#16] =
    .ok (.immCopy ⟨0, 0, 0, 0⟩ (some 0x0120#16) (some 0xBEEF#16), []) := by decide
theorem test_decode_rejects_no_word : decode cfg [] = .error .noWord := by decide
theorem test_decode_rejects_missing_operand_word : decode cfg [0x0042#16] = .error (.truncated 1) := by decide
theorem test_decode_rejects_missing_immediate : decode cfg [0x200A#16, 0x0050#16] = .error (.truncated 2) := by decide
theorem test_decodeTableWord_op5 : decodeTableWord 16 0x0005 = some (.op5 ⟨0, 0, 0, 0⟩ none none) := by decide
theorem test_encode_immCopy : encode cfg (.immCopy ⟨0, 2, 0, 0⟩ (some 0x0050#16) (some 0xBEEF#16)) =
    [0x200A#16, 0x0050#16, 0xBEEF#16] := by decide

/-! ### 95_test_vectors.md 2.1 to 2.4: the split, the modes, the unpacker, the namer -/

theorem test_split_vectors : ∀ row ∈ ([
    (0x0042#16, ⟨0, 0, 0, 0⟩, 66#9), (0x8042#16, ⟨2, 0, 0, 0⟩, 66#9), (0xA042#16, ⟨2, 2, 0, 0⟩, 66#9),
    (0x4042#16, ⟨1, 0, 0, 0⟩, 66#9), (0x0842#16, ⟨0, 0, 2, 0⟩, 66#9), (0x0242#16, ⟨0, 0, 0, 1⟩, 66#9),
    (0x5842#16, ⟨1, 1, 2, 0⟩, 66#9), (0xC042#16, ⟨3, 0, 0, 0⟩, 66#9), (0x2042#16, ⟨0, 2, 0, 0⟩, 66#9),
    (0xF042#16, ⟨3, 3, 0, 0⟩, 66#9), (0x0C42#16, ⟨0, 0, 3, 0⟩, 66#9), (0xFFFF#16, ⟨3, 3, 3, 1⟩, 511#9),
    (0x0000#16, ⟨0, 0, 0, 0⟩, 0#9), (0x0200#16, ⟨0, 0, 0, 1⟩, 0#9), (0x01FF#16, ⟨0, 0, 0, 0⟩, 511#9),
    (0xC046#16, ⟨3, 0, 0, 0⟩, 70#9), (0x3000#16, ⟨0, 3, 0, 0⟩, 0#9), (0x0C00#16, ⟨0, 0, 3, 0⟩, 0#9)] :
      List (Word × Head × OpId)),
    headField row.1 = row.2.1 ∧ opcodeField row.1 = row.2.2 := by decide

theorem test_modes_of_66 : ∀ row ∈ ([
    (0x0042#16, [.reg, .reg, .none], 2),
    (0x4042#16, [.reg, .reg, .none], 2),
    (0x8042#16, [.nonReg, .reg, .none], 1),
    (0xC042#16, [.nonReg, .reg, .none], 1),
    (0x2042#16, [.reg, .nonReg, .none], 1),
    (0xA042#16, [.nonReg, .nonReg, .none], 0),
    (0xF042#16, [.nonReg, .nonReg, .none], 0),
    (0x0C42#16, [.reg, .reg, .none], 2),
    (0x5842#16, [.reg, .reg, .none], 2)] :
      List (Word × List Mode × Nat)),
    modesOf 2 (headField row.1) = row.2.1 ∧ regCount 2 (headField row.1) = row.2.2 := by decide

theorem test_modes_of_error_class :
    ([0x0046#16, 0xC046#16, 0xFFFF#16].map fun w => modesOf (cfg.arity (opcodeField w)) (headField w)) =
    [[.none, .none, .none], [.none, .none, .none], [.none, .none, .none]] := by decide
theorem test_modes_of_arity_3 : ∀ row ∈ ([(0x0003#16, 3), (0x8003#16, 2), (0x0803#16, 2), (0xA803#16, 0)] : List (Word × Nat)),
    regCount 3 (headField row.1) = row.2 := by decide

/-- The operand words of the table of 2.3. -/
def unpackWords : List Word :=
    [0x0030#16, 0xFF3F#16, 0x0120#16, 0x0F70#16, 0xF12F#16, 0x1230#16, 0x0340#16, 0x0042#16, 0xFFFF#16, 0x0000#16]

theorem test_unpack_k1 : (unpackWords.map fun w => unpack .msbFirst w 1) =
    [[3], [3], [2], [7], [2], [3], [4], [4], [15], [0]] := by decide
theorem test_unpack_k2 : (unpackWords.map fun w => unpack .msbFirst w 2) =
    [[0, 3], [15, 3], [1, 2], [15, 7], [1, 2], [2, 3], [3, 4], [0, 4], [15, 15], [0, 0]] := by decide
theorem test_unpack_k2_lsb : (unpackWords.map fun w => unpack .lsbFirst w 2) =
    [[3, 0], [3, 15], [2, 1], [7, 15], [2, 1], [3, 2], [4, 3], [4, 0], [15, 15], [0, 0]] := by decide
theorem test_unpack_k3 : (unpackWords.map fun w => unpack .msbFirst w 3) =
    [[0, 0, 3], [15, 15, 3], [0, 1, 2], [0, 15, 7], [15, 1, 2], [1, 2, 3], [0, 3, 4], [0, 0, 4], [15, 15, 15], [0, 0, 0]] := by decide
theorem test_unpack_k3_lsb : (unpackWords.map fun w => unpack .lsbFirst w 3) =
    [[3, 0, 0], [3, 15, 15], [2, 1, 0], [7, 15, 0], [2, 1, 15], [3, 2, 1], [4, 3, 0], [4, 0, 0], [15, 15, 15], [0, 0, 0]] := by decide
theorem test_unpack_k1_lsb : (unpackWords.map fun w => unpack .lsbFirst w 1) = unpackWords.map fun w => unpack .msbFirst w 1 := by
  decide

theorem test_namer_named : ([1, 2, 3, 4, 5, 6] : List RegIdx).map cfg.nameOf =
    ["REG_NAME_1", "REG_NAME_2", "REG_NAME_3", "REG_NAME_4", "REG_NAME_5", "REG_NAME_6"] := by decide
theorem test_namer_nil : ∀ r ∈ ([0, 7, 8, 14, 15] : List RegIdx), cfg.nameOf r = "NIL_NAME" := by decide
theorem test_isValid : ([0, 1, 6, 7, 15] : List RegIdx).map RegIdx.isValid = [false, true, true, false, false] := by decide

/-- R69's own example, and P4's two records of arity 3. -/
theorem test_posOf : posOf [.nonReg, .reg, .none] 0 = some 1 ∧ posOf [.nonReg, .reg, .reg] 1 = some 2 ∧
    posOf [.reg, .reg, .nonReg] 1 = some 1 ∧ posOf [.reg, .reg, .nonReg] 2 = none := by decide

/-! ### 95_test_vectors.md 2.5: DEC, with M = 10 and T3 = 3 -/

theorem test_dec_truncated_operand : decSeen cfg [0x0042#16] 0 = .error ⟨.truncatedInstruction, 0, 1, 1⟩ := by decide
theorem test_dec_two_registers : decSeen cfg [0x0042#16, 0x0120#16] 0 = .ok ([1, 2], none, 2) := by decide
theorem test_dec_two_registers_lsb : decSeen cfgLsb [0x0042#16, 0x0120#16] 0 = .ok ([2, 1], none, 2) := by decide
theorem test_dec_no_operand_word : decSeen cfg [0xA042#16] 0 = .ok ([], none, 1) := by decide
theorem test_dec_error_class : decSeen cfg [0x0046#16] 0 = .ok ([], none, 1) := by decide
theorem test_dec_imm_k1 : decSeen cfg [0x200A#16, 0x0050#16, 0xBEEF#16] 0 = .ok ([5], some 0xBEEF#16, 3) := by decide
theorem test_dec_imm_missing_immediate :
    decSeen cfg [0x200A#16, 0x0050#16] 0 = .error ⟨.truncatedInstruction, 0, 2, 2⟩ := by decide
theorem test_dec_imm_missing_operand : decSeen cfg [0x200A#16] 0 = .error ⟨.truncatedInstruction, 0, 1, 1⟩ := by decide
theorem test_dec_imm_k0 : decSeen cfg [0xA00A#16, 0x1234#16] 0 = .ok ([], some 0x1234#16, 2) := by decide
theorem test_dec_imm_k0_missing : decSeen cfg [0xA00A#16] 0 = .error ⟨.truncatedInstruction, 0, 1, 1⟩ := by decide
theorem test_dec_imm_k2 : decSeen cfg [0x000A#16, 0x0340#16, 0x0046#16] 0 = .ok ([3, 4], some 0x0046#16, 3) := by decide
theorem test_dec_truncated_at_1 : decSeen cfg [0x0046#16, 0x0042#16] 1 = .error ⟨.truncatedInstruction, 1, 2, 2⟩ := by
  decide
theorem test_dec_cursor_at_len : decSeen cfg [0x0046#16] 1 = .error ⟨.cursorOutOfRange, 1, 1, 1⟩ := by decide
theorem test_dec_empty_region : decSeen cfg [] 0 = .error ⟨.cursorOutOfRange, 0, 0, 0⟩ := by decide
theorem test_dec_arity_3 : decSeen cfg [0x0003#16, 0x1230#16] 0 = .ok ([1, 2, 3], none, 2) := by decide
theorem test_dec_arity_3_lsb : decSeen cfgLsb [0x0003#16, 0x1230#16] 0 = .ok ([3, 2, 1], none, 2) := by decide

/-- 30_encoding.md R35: bytes 0x42, 0x00 are the word 0x0042 under Little and 0x4200 under Big. -/
theorem test_byte_orders : wordOfBytes .little 0x42#8 0x00#8 = 0x0042#16 ∧ wordOfBytes .big 0x42#8 0x00#8 = 0x4200#16 := by
  decide
theorem test_supplied_region_bytes : (at3 cfg [0x1234#16]).mem = [(3, 0x34#8), (4, 0x12#8)] := by decide
theorem test_write_of_unlisted_value_removes : Memory.write [(3, 0x34#8)] 3 0#8 = [] := by decide

/-! ### Single steps: 95_test_vectors.md 2.6 and single steps of P1 to P5 -/

theorem test_step_absent_region :
    seen (step { State.reset with cfg := cfg }) = some ⟨0, .fault, some ⟨.noCodeRegion, 0, 0, 0⟩, []⟩ := by decide
theorem test_step_empty_region : seen (step (at3 cfg [])) = some ⟨0, .done, none, []⟩ := by decide
theorem test_step_error_class :
    seen (step (at3 cfg [0x0046#16])) = some ⟨1, .run, none, [⟨70, false, 0, [], none, 1⟩]⟩ := by decide
theorem test_step_at_end : seen (step (at3From cfg 1 [0x0046#16])) = some ⟨1, .done, none, []⟩ := by decide
theorem test_step_P1_at_0 : seen (step (at3 cfg [0x0042#16, 0x0120#16, 0xA042#16])) =
    some ⟨2, .run, none, [⟨66, true, 2, [1, 2], none, 2⟩]⟩ := by decide
theorem test_step_P2_invalid_registers : seen (step (at3From cfg 1 [0x0046#16, 0x0242#16, 0x0F70#16, 0x0042#16])) =
    some ⟨3, .run, none, [⟨66, true, 2, [15, 7], none, 2⟩]⟩ := by decide
theorem test_step_P2_truncated : seen (step (at3From cfg 3 [0x0046#16, 0x0242#16, 0x0F70#16, 0x0042#16])) =
    some ⟨3, .fault, some ⟨.truncatedInstruction, 3, 4, 4⟩, []⟩ := by decide
theorem test_step_P3_at_3 : seen (step (at3From cfg 3 [0x200A#16, 0x0050#16, 0xBEEF#16, 0xA00A#16, 0x1234#16])) =
    some ⟨5, .run, none, [⟨10, true, 0, [], some 0x1234#16, 2⟩]⟩ := by decide
theorem test_step_P3_at_5_lsb : seen (step (at3 cfgLsb [0x000A#16, 0x0340#16, 0x0046#16, 0x01FF#16])) =
    some ⟨3, .run, none, [⟨10, true, 2, [4, 3], some 0x0046#16, 3⟩]⟩ := by decide
theorem test_step_P4_at_2 : seen (step (at3 cfg [0x8003#16, 0x0230#16])) =
    some ⟨2, .run, none, [⟨3, true, 2, [2, 3], none, 2⟩]⟩ := by decide
theorem test_step_P5 : seen (step (at3 cfg [0x0042#16, 0x0042#16, 0x0046#16])) =
    some ⟨2, .run, none, [⟨66, true, 2, [0, 4], none, 2⟩]⟩ := by decide
theorem test_step_done_stops : seen (step { at3 cfg [] with st := .done }) = none := by decide
theorem test_step_fault_stops : seen (step { at3 cfg [] with st := .fault }) = none := by decide
theorem test_step_placed_word : seen (step (State.reset.withFetchWord 16 0x0042)) =
    some ⟨2, .run, none, [⟨66, true, 2, [0, 0], none, 2⟩]⟩ := by decide

/-- Every low-block arm answers its own id: run each, all positions in non-register mode, on a one-word region. -/
theorem test_exec_low_ids : Reference.lowRows.map (fun row =>
      (seen (exec (row.2 ⟨2, 2, 2, 0⟩ none none) (at3 cfgTop [0xA800#16]))).map fun r => r.out.map (·.op)) =
    (List.range 39).map fun i => some [BitVec.ofNat 9 i] := by decide
theorem test_exec_s1 : seen (exec (.s1 ⟨0, 0, 0, 0⟩ (some 0x0030) none) (at3 cfg [0x0029#16, 0x0030#16])) =
    some ⟨2, .run, none, [⟨41, true, 1, [3], none, 2⟩]⟩ := by decide
theorem test_exec_s2 : seen (exec (.s2 ⟨0, 0, 2, 0⟩ (some 0x0120) none) (at3 cfg [0x0832#16, 0x0120#16])) =
    some ⟨2, .run, none, [⟨50, true, 2, [1, 2], none, 2⟩]⟩ := by decide
theorem test_exec_high_ids :
    ([.ha ⟨2, 2, 0, 0⟩ none none, .hb ⟨2, 2, 0, 0⟩ none none, .op66 ⟨2, 2, 0, 0⟩ none none, .hc ⟨2, 2, 0, 0⟩ none none] :
      List Instr).map (fun i => (seen (exec i (at3 cfg [0xA040#16]))).map fun r => r.out.map (·.op)) =
    [some [64], some [65], some [66], some [67]] := by decide
theorem test_exec_sentinel : seen (exec (.sentinel ⟨0, 0, 0, 0⟩) (at3 cfg [0x0064#16])) =
    some ⟨1, .run, none, [⟨100, false, 0, [], none, 1⟩]⟩ := by decide

/-! ### Witnesses: for every statement with hypotheses, concrete terms that meet them together, clause by clause -/

/-- The two-instruction region of the witnesses: opcode 66 with its operand word, then an ERROR-class word. -/
def words : List Word := [0x0042#16, 0x0120#16, 0x0046#16]

/-- A state in the middle of the sweep of `words`: its first instruction is recorded. -/
def mid : State :=
  { at3 cfg words with
    cur := 2
    out := [Reference.record cfg 0 66 2 "MNEMONIC_66" true ⟨0, 0, 0, 0⟩ (some 0x0120#16) none] }

theorem witness_DecodeOfEncode : cfg.wf = true ∧
    (Instr.immCopy ⟨1, 3, 2, 1⟩ (some 0x0050#16) (some 0xBEEF#16)).wf cfg = true ∧
    (Instr.op3 ⟨0, 0, 0, 0⟩ (some 0xFFFF#16) none).wf cfg = true ∧ (Instr.sentinel ⟨3, 3, 3, 1⟩).wf cfg = true ∧
    (Instr.errorClass 511#9 ⟨3, 3, 3, 1⟩).wf cfg = true := by decide

theorem witness_EncodeOfDecode : cfg.wf = true ∧ decode cfg [0x200A#16, 0x0050#16, 0xBEEF#16, 0x0046#16] =
    .ok (.immCopy ⟨0, 2, 0, 0⟩ (some 0x0050#16) (some 0xBEEF#16), [0x0046#16]) := by decide

/-- Both clauses at the boundary of the longest instruction: exactly its three words, and one word less. -/
theorem witness_DecodeLengthFromFirstWord :
    Reference.size (Reference.count (cfg.arity (opcodeField 0x200A#16)) (headField 0x200A#16))
      (decide ((opcodeField 0x200A#16).toNat = cfg.immCopyId)) ≤ [0x0050#16, 0xBEEF#16].length + 1 ∧
    [0x0050#16].length + 1 < Reference.size (Reference.count (cfg.arity (opcodeField 0x200A#16)) (headField 0x200A#16))
      (decide ((opcodeField 0x200A#16).toNat = cfg.immCopyId)) := by decide

theorem witness_SampleWordsDecode : ({ cfg with arityLow := Vector.replicate 39 2 } : Config).wf = true ∧
    ({ cfg with arityLow := Vector.replicate 39 2 } : Config).arityLow[5] = 2 ∧ cfg.immCopyId ≠ 5 ∧ cfg.immCopyId ≠ 66 ∧
    cfg.sentinelId ≠ 511 := by decide

/-- Arity 3: SIGN and bit 0 of every flag differ. Arity 0: every flag differs. -/
theorem witness_SignAndIgnoredFlagsChangeNoShape : cfg.arity 3#9 = 3 ∧ cfg.arity 0#9 = 0 ∧
    ((0#2).getLsbD 1 = (1#2).getLsbD 1 ∧ (2#2).getLsbD 1 = (3#2).getLsbD 1) ∧
    (0 < cfg.arity 3#9 → (⟨0, 2, 0, 0⟩ : Head).aflg0.getLsbD 1 = (⟨1, 3, 1, 1⟩ : Head).aflg0.getLsbD 1) ∧
    (1 < cfg.arity 3#9 → (⟨0, 2, 0, 0⟩ : Head).aflg1.getLsbD 1 = (⟨1, 3, 1, 1⟩ : Head).aflg1.getLsbD 1) ∧
    (2 < cfg.arity 3#9 → (⟨0, 2, 0, 0⟩ : Head).aflg2.getLsbD 1 = (⟨1, 3, 1, 1⟩ : Head).aflg2.getLsbD 1) ∧
    (0 < cfg.arity 0#9 → (⟨0, 0, 0, 0⟩ : Head).aflg0.getLsbD 1 = (⟨3, 3, 3, 1⟩ : Head).aflg0.getLsbD 1) ∧
    (1 < cfg.arity 0#9 → (⟨0, 0, 0, 0⟩ : Head).aflg1.getLsbD 1 = (⟨3, 3, 3, 1⟩ : Head).aflg1.getLsbD 1) ∧
    (2 < cfg.arity 0#9 → (⟨0, 0, 0, 0⟩ : Head).aflg2.getLsbD 1 = (⟨3, 3, 3, 1⟩ : Head).aflg2.getLsbD 1) := by decide

/-- The least and the greatest k, with words that differ in every ignored bit. -/
theorem witness_UnpackLayouts_and_IgnoredOperandBits :
    (∀ b ∈ List.range 16, 4 ≤ b → b < 4 * 1 + 4 → (0x0030#16).getLsbD b = (0xFF3F#16).getLsbD b) ∧
    (∀ b ∈ List.range 16, 4 ≤ b → b < 4 * 3 + 4 → (0x1230#16).getLsbD b = (0x123F#16).getLsbD b) ∧
    0x0030#16 ≠ 0xFF3F#16 ∧ 0x1230#16 ≠ 0x123F#16 := by decide

theorem witness_RegisterNamerRom : cfg.wf = true ∧ 1 ≤ (1#4).toNat ∧ (6#4).toNat ≤ 6 ∧ cfg.nameOf 6#4 = cfg.nameOf 6#4 := by
  decide

theorem witness_PositionOfIndex : posOf (modesOf 3 ⟨0, 2, 0, 0⟩) 0 = some 0 ∧ posOf (modesOf 3 ⟨0, 2, 0, 0⟩) 1 = some 2 ∧
    0 < 1 ∧ (⟨2, 0, 0, 0⟩ : Head).aflg0.getLsbD 1 = true ∧ (⟨2, 0, 0, 0⟩ : Head).aflg1.getLsbD 1 = false := by decide

/-- Every clause: the first and last low ids, S1, S2, the first and last high ids, and an unpopulated id. -/
theorem witness_OpcodeTableRom : cfg.wf = true ∧ (0#9).toNat = (0 : Fin 39).val ∧ (38#9).toNat = (38 : Fin 39).val ∧
    (41#9).toNat = cfg.s1 ∧ (50#9).toNat = cfg.s2 ∧ (64#9).toNat = cfg.highBase + (0 : Fin 4).val ∧
    (67#9).toNat = cfg.highBase + (3 : Fin 4).val ∧ cfg.populated 39#9 = false ∧ cfg.populated 68#9 = false := by decide

theorem witness_IdBoundsOfEveryConfiguration : cfg.wf = true ∧ cfgTop.wf = true ∧ Config.atReset.wf = true ∧
    (38#9).toNat ≤ 38 ∧ 70 ≤ (70#9).toNat ∧ 70 ≤ (511#9).toNat ∧ (10#9).toNat = cfg.immCopyId ∧
    (69#9).toNat = cfgTop.immCopyId ∧ (100#9).toNat = cfg.sentinelId ∧ (67#9).toNat = Config.atReset.highBase + 4 ∧
    (70#9).toNat = cfgTop.highBase + 4 := by decide

theorem witness_HighBlockMembers : ∀ b ∈ [63, 64, 65, 66],
    ({ cfg with s1 := 39, s2 := 40, highBase := b } : Config).wf = true := by decide

/-- An instruction of size 2 and one of size 1 whose last word is the region's last word. -/
theorem witness_DecOfFittingInstruction :
    1 + Reference.size (Reference.count 2 (headField 0x0042#16)) false = (view3 3).len.toNat ∧
    codeAt cfg (at3 cfg [0x0046#16, 0x0042#16, 0x0120#16]).mem (view3 3) 1 = 0x0042#16 ∧
    cfg.arity (opcodeField 0x0042#16) = 2 ∧ (opcodeField 0x0042#16).toNat ≠ cfg.immCopyId ∧
    2 + Reference.size (Reference.count 0 (headField 0x0046#16)) false = (view3 3).len.toNat ∧
    codeAt cfg (at3 cfg words).mem (view3 3) 2 = 0x0046#16 ∧ cfg.arity (opcodeField 0x0046#16) = 0 := by decide

/-- The first clause at c = LEN; the second at c = LEN - 1 with an instruction of two words. -/
theorem witness_DecFaults : (view3 1).len.toNat ≤ 1 ∧ 0 < (view3 1).len.toNat ∧
    (view3 1).len.toNat < 0 + Reference.size (Reference.count (cfg.arity (opcodeField 0x0042#16)) (headField 0x0042#16))
      (decide ((opcodeField 0x0042#16).toNat = cfg.immCopyId)) ∧
    codeAt cfg (at3 cfg [0x0042#16]).mem (view3 1) 0 = 0x0042#16 := by decide

/-- Two buffers, one region at byte 3 and one at byte 8, with other bytes elsewhere. -/
theorem witness_DecIsAFunctionOfTheCodeWords : (view3 3).len = (⟨8, 3#16⟩ : CodeView).len ∧
    ∀ a ∈ List.range 3, codeAt cfg (at3 cfg words).mem (view3 3) a =
      codeAt cfg (((at3 cfg [0xFFFF#16]).mem).writeWords .little 8 words) ⟨8, 3#16⟩ a := by decide

theorem witness_DecSizes :
    ∃ d, dec cfg (at3 cfg [0x200A#16, 0x0050#16, 0xBEEF#16]).mem (view3 3) 0 = .ok (d, 3) ∧ d.regs[0]? = some 5 := ⟨_, rfl, rfl⟩

theorem witness_DecodedRegisterListHasKEntries :
    ∃ d, dec cfg (at3 cfg [0x0042#16, 0x0070#16]).mem (view3 2) 0 = .ok (d, 2) ∧ d.regs[0]? = some 0 ∧ d.regs[1]? = some 7 ∧
      ((0#4).toNat = 0 ∨ 7 ≤ (0#4).toNat) ∧ ((7#4).toNat = 0 ∨ 7 ≤ (7#4).toNat) := ⟨_, rfl, rfl, rfl, by decide⟩

theorem witness_DecodedRegisterListHasKEntries_nonReg :
    ∃ d, dec cfg (at3 cfg [0x8042#16, 0x0030#16]).mem (view3 2) 0 = .ok (d, 2) ∧
      Mode.nonReg ∈ [d.mode0, d.mode1, d.mode2] := ⟨_, rfl, by decide⟩

/-- Immediate words with and without an operand word, and an opcode without one. -/
theorem witness_ImmediateIsTheLastWordVerbatim :
    (∃ d, dec cfg (at3 cfg [0xA00A#16, 0x1234#16]).mem (view3 2) 0 = .ok (d, 2) ∧ d.op.toNat = cfg.immCopyId) ∧
    (∃ d, dec cfg (at3 cfg [0x200A#16, 0x0050#16, 0xBEEF#16]).mem (view3 3) 0 = .ok (d, 3) ∧ d.op.toNat = cfg.immCopyId) ∧
    (∃ d, dec cfg (at3 cfg words).mem (view3 3) 0 = .ok (d, 2) ∧ d.op.toNat ≠ cfg.immCopyId) :=
  ⟨⟨_, rfl, rfl⟩, ⟨_, rfl, rfl⟩, ⟨_, rfl, by decide⟩⟩

/-- The last cursor of a region, and ids at the bounds of the gaps: 39, HIGH_BASE + 4 and 511. -/
theorem witness_UnpopulatedIdDecodesAsErrorClass : cfg.wf = true ∧ 2 < (view3 3).len.toNat ∧
    codeAt cfg (at3 cfg [0x0042#16, 0x0120#16, 0x0027#16]).mem (view3 3) 2 = 0x0027#16 ∧
    codeAt cfg (at3 cfg [0x0042#16, 0x0120#16, 0x0044#16]).mem (view3 3) 2 = 0x0044#16 ∧
    codeAt cfg (at3 cfg [0x0042#16, 0x0120#16, 0xFFFF#16]).mem (view3 3) 2 = 0xFFFF#16 ∧
    cfg.populated (opcodeField 0x0027#16) = false ∧ cfg.populated (opcodeField 0x0044#16) = false ∧
    cfg.populated (opcodeField 0xFFFF#16) = false := by decide

/-- A memory that lists bytes, an odd offset, and the greatest length. -/
theorem witness_SuppliedRegionIsRead : (at3 cfg words).mem.wf ∧ words.length ≤ 65535 ∧
    (List.replicate 65535 (0 : Word)).length ≤ 65535 ∧ (2 < 3 ∨ 3 + 2 * words.length ≤ 2) ∧
    (9 < 3 ∨ 3 + 2 * words.length ≤ 9) := by
  refine ⟨by decide, by decide, Nat.le_of_eq List.length_replicate, by decide, by decide⟩

theorem witness_WordFromItsTwoBytes : cfg.byteOrder = .little ∧ cfgLsb.byteOrder = .big := by decide

theorem witness_FetchWindowIsTheRegionAtTheCursor : (at3From cfg 2 words).code = some (view3 3) ∧
    0 < (at3From cfg 2 words).fetchWindow.length ∧ (at3 cfg words).fetchWindow.length = 3 := by decide

/-- Opcode 0 (arity 0), opcode 3 (arity 3) and the overlaid id 10 (an immediate), each ending at LEN. -/
theorem witness_LowBlockDecodes :
    (∃ row ∈ Reference.lowRows, row.1 = 0) ∧ (∃ row ∈ Reference.lowRows, row.1 = 38) ∧
    (at3 cfg [0x0000#16]).code = some (view3 1) ∧
    0 + Reference.size (Reference.count cfg.arityLow[0] ⟨0, 0, 0, 0⟩) (decide (0 = cfg.immCopyId)) ≤ (view3 1).len.toNat ∧
    (none : Option Word).isSome = decide (1 ≤ Reference.count cfg.arityLow[0] ⟨0, 0, 0, 0⟩) ∧
    (none : Option Word).isSome = decide (0 = cfg.immCopyId) ∧
    (at3 cfg [0x0003#16, 0x1230#16]).code = some (view3 2) ∧
    0 + Reference.size (Reference.count cfg.arityLow[3] ⟨0, 0, 0, 0⟩) (decide (3 = cfg.immCopyId)) ≤ (view3 2).len.toNat ∧
    (some 0x1230#16 : Option Word).isSome = decide (1 ≤ Reference.count cfg.arityLow[3] ⟨0, 0, 0, 0⟩) ∧
    (at3 cfg [0x200A#16, 0x0050#16, 0xBEEF#16]).code = some (view3 3) ∧
    (some 0xBEEF#16 : Option Word).isSome = decide (10 = cfg.immCopyId) ∧
    0 + Reference.size (Reference.count cfg.arityLow[10] ⟨0, 2, 0, 0⟩) (decide (10 = cfg.immCopyId)) ≤ (view3 3).len.toNat :=
  ⟨⟨_, List.mem_cons_self, rfl⟩, ⟨(38, .op38), by simp [Reference.lowRows], rfl⟩, by decide⟩

theorem witness_SingletonS1Decodes : cfg.wf = true ∧ (at3 cfg [0x0029#16, 0x0030#16]).code = some (view3 2) ∧
    (some 0x0030#16 : Option Word).isSome = decide (1 ≤ Reference.count cfg.arityS1 ⟨0, 0, 0, 0⟩) ∧
    (none : Option Word).isSome = decide (cfg.s1 = cfg.immCopyId) ∧
    0 + Reference.size (Reference.count cfg.arityS1 ⟨0, 0, 0, 0⟩) (decide (cfg.s1 = cfg.immCopyId)) ≤ (view3 2).len.toNat := by
  decide

theorem witness_SingletonS2Decodes : cfg.wf = true ∧ (at3 cfg [0x0032#16, 0x1230#16]).code = some (view3 2) ∧
    (some 0x1230#16 : Option Word).isSome = decide (1 ≤ Reference.count cfg.arityS2 ⟨0, 0, 0, 0⟩) ∧
    (none : Option Word).isSome = decide (cfg.s2 = cfg.immCopyId) ∧
    0 + Reference.size (Reference.count cfg.arityS2 ⟨0, 0, 0, 0⟩) (decide (cfg.s2 = cfg.immCopyId)) ≤ (view3 2).len.toNat := by
  decide

/-- All four ids as ordinary opcodes with an operand word, and H_c as IMM_COPY_ID (`cfgTop`). -/
theorem witness_HighBlockDecodes : cfg.wf = true ∧ (at3 cfg [0x0040#16, 0x0120#16]).code = some (view3 2) ∧
    (∀ id ∈ [cfg.highA, cfg.highB, 66, cfg.highC], decide (id = cfg.immCopyId) = false) ∧
    (some 0x0120#16 : Option Word).isSome = decide (1 ≤ Reference.count 2 ⟨0, 0, 0, 0⟩) ∧
    0 + Reference.size (Reference.count 2 ⟨0, 0, 0, 0⟩) false ≤ (view3 2).len.toNat ∧
    cfgTop.wf = true ∧ decide (cfgTop.highC = cfgTop.immCopyId) = true ∧
    0 + Reference.size (Reference.count 2 ⟨2, 2, 0, 0⟩) true ≤ (view3 2).len.toNat := by decide

/-- k = 0, k = 1 and k = 2, each ending at LEN. -/
theorem witness_ImmediateCopyDecodes : cfg.wf = true ∧ (at3 cfg [0xA00A#16, 0x1234#16]).code = some (view3 2) ∧
    (none : Option Word).isSome = decide (1 ≤ Reference.count 2 ⟨2, 2, 0, 0⟩) ∧
    0 + 2 + (if 1 ≤ Reference.count 2 ⟨2, 2, 0, 0⟩ then 1 else 0) ≤ (view3 2).len.toNat ∧
    (at3 cfg [0x200A#16, 0x0050#16, 0xBEEF#16]).code = some (view3 3) ∧
    (some 0x0050#16 : Option Word).isSome = decide (1 ≤ Reference.count 2 ⟨0, 2, 0, 0⟩) ∧
    0 + 2 + (if 1 ≤ Reference.count 2 ⟨0, 2, 0, 0⟩ then 1 else 0) ≤ (view3 3).len.toNat ∧
    0 + 2 + (if 1 ≤ Reference.count 2 ⟨0, 0, 0, 0⟩ then 1 else 0) ≤ (view3 3).len.toNat := by decide

theorem witness_SentinelAndErrorClassDecode : cfg.wf = true ∧ (at3From cfg 2 words).code = some (view3 3) ∧
    (at3From cfg 2 words).cur < (view3 3).len.toNat ∧ cfg.populated 70#9 = false := by decide

/-- A missing operand word at c = LEN - 1, and a missing immediate after an operand word. -/
theorem witness_TruncatedInstructionIsTaken :
    (at3 cfg [0x0042#16]).code = some (view3 1) ∧ (at3 cfg [0x0042#16]).cur < (view3 1).len.toNat ∧
    (Instr.op66 ⟨0, 0, 0, 0⟩ (some 0) none).wf cfg = true ∧
    (view3 1).len.toNat < 0 + (Instr.op66 ⟨0, 0, 0, 0⟩ (some 0) none).size cfg ∧
    (at3 cfg [0x200A#16, 0x0050#16]).code = some (view3 2) ∧
    (Instr.immCopy ⟨0, 2, 0, 0⟩ (some 0x0050#16) (some 0)).wf cfg = true ∧
    (view3 2).len.toNat < 0 + (Instr.immCopy ⟨0, 2, 0, 0⟩ (some 0x0050#16) (some 0)).size cfg := by decide

/-- An absent region; and an empty one. -/
theorem witness_AbsentRegionFaults : ({ State.reset with cfg := cfg } : State).cfg.wf = true ∧
    ({ State.reset with cfg := cfg } : State).st = .run ∧ ({ State.reset with cfg := cfg } : State).code = none ∧
    (at3 cfg []).cfg.wf = true ∧ (at3 cfg []).st = .run ∧ (at3 cfg []).code = some (view3 0) ∧
    (at3 cfg []).cur = (view3 0).len.toNat := by decide

/-- CUR = LEN for the meanings, CUR = LEN + 1 for the step. -/
theorem witness_CursorBeyondRegionFaults : (at3From cfg 3 words).code = some (view3 3) ∧
    (view3 3).len.toNat ≤ (at3From cfg 3 words).cur ∧ (view3 3).len.toNat ≤ (at3From cfg 4 words).cur ∧
    (at3From cfg 4 words).cfg.wf = true ∧ (at3From cfg 4 words).st = .run ∧
    (view3 3).len.toNat ≠ (at3From cfg 4 words).cur := by decide

theorem witness_StepRunsTheDecodedInstruction : (at3 cfg words).cfg.wf = true ∧ (at3 cfg words).st = .run ∧
    (at3 cfg words).code = some (view3 3) ∧ (at3 cfg words).cur < (view3 3).len.toNat ∧
    decode (at3 cfg words).cfg (at3 cfg words).fetchWindow =
      .ok (.op66 ⟨0, 0, 0, 0⟩ (some 0x0120#16) none, [0x0046#16]) := by decide

theorem witness_PlacedInstructionRunsNext : (at3 cfg words).cfg.wf = true ∧ (at3 cfg words).mem.wf ∧
    decode (at3 cfg words).cfg (tableWords 16 0x200A) = .ok (.immCopy ⟨0, 2, 0, 0⟩ (some 0) (some 0), []) := by decide

/-- Each of the three statuses. -/
theorem witness_StepIsSeqStepOverDec : (at3 cfg words).cfg.wf = true ∧ (at3 cfg words).st = .run ∧
    ({ at3 cfg words with st := .done } : State).st = .done ∧ ({ at3 cfg words with st := .fault } : State).st = .fault := by
  decide

theorem witness_StepIsPossibleExactlyWhileRunning : ConfigCheck.wfImm.holds { cfg with immCopyId := 70 } = false ∧
    (∀ k ∈ ConfigCheck.all, k.holds cfg = true) ∧ (at3 cfg words).st = .run := by decide

theorem witness_CodeRegionNeverChanges_and_StepFrame : (∃ t, step (at3 cfg words) = .next t ∧ t.out.length = 1) ∧
    (∃ t, step (at3From cfg 3 words) = .next t ∧ t.st = .done) ∧
    (∃ t, step (at3From cfg 1 [0x0046#16, 0x0042#16]) = .next t ∧ t.st = .fault) ∧
    (∃ t, exec (.op66 ⟨0, 0, 0, 0⟩ (some 0x0120#16) none) (at3 cfg words) = .next t) ∧
    ∃ t, exec (.sentinel ⟨0, 0, 0, 0⟩) { at3 cfg words with st := .done } = .next t :=
  ⟨⟨_, rfl, rfl⟩, ⟨_, rfl, rfl⟩, ⟨_, rfl, rfl⟩, ⟨_, rfl⟩, ⟨_, rfl⟩⟩

theorem witness_SweepNeverFollowsControlFlow :
    (∃ t, exec (.op38 ⟨0, 0, 0, 0⟩ (some 0x0120#16) none) (at3 cfg [0x0026#16, 0x0120#16]) = .next t ∧ t.cur = 2) ∧
    ∃ t, exec (.op38 ⟨0, 0, 0, 0⟩ none none) (at3 cfg [0x0026#16]) = .next t ∧ t.st = .fault :=
  ⟨⟨_, rfl, rfl⟩, ⟨_, rfl, rfl⟩⟩

/-- The invariant holds in the middle of a sweep, and the step from there has a next state. -/
theorem witness_StepKeepsSweepInvariant : mid.Inv ∧ ∃ t, step mid = .next t ∧ t.out.length = 2 := by
  refine ⟨⟨by decide, ⟨rfl, rfl⟩, ?_, by decide, by decide, by decide, ?_⟩, ⟨_, rfl, rfl⟩⟩
  · intro v hv d hd
    obtain rfl : view3 3 = v := Option.some.inj hv
    obtain rfl : d = _ := List.mem_singleton.mp hd
    rfl
  · intro f hf
    simp [mid, at3, State.reset, State.loadRegion] at hf

theorem witness_SweepEndsWithinLenPlusOneSteps : mid.cfg.wf = true ∧ mid.Inv ∧ mid.st = .run :=
  ⟨by decide, witness_StepKeepsSweepInvariant.1, rfl⟩

theorem witness_DoneSweepTilesTheRegion : ∃ t, core.run 3 (at3 cfg words).resetFrom = .next t ∧ t.st = .done := ⟨_, rfl, rfl⟩

/-- A truncated sweep after one record, and an absent region. -/
theorem witness_TruncatedSweepKeepsItsPrefix :
    (∃ t, core.run 2 (at3 cfg [0x0046#16, 0x0042#16]).resetFrom = .next t ∧ t.st = .fault ∧ t.code.isSome = true ∧
      t.out.length = 1) ∧
    ∃ t, core.run 1 ({ State.reset with cfg := cfg } : State).resetFrom = .next t ∧ t.st = .fault ∧ t.code = none :=
  ⟨⟨_, rfl, rfl, rfl, rfl⟩, ⟨_, rfl, rfl, rfl⟩⟩

/-- Two instructions, of two words and of one. -/
theorem witness_SweepOfSynthesisedInstructions :
    (at3 cfg words).cfg.wf = true ∧ (at3 cfg words).code = some (view3 3) ∧
    (∀ i ∈ [Instr.op66 ⟨0, 0, 0, 0⟩ (some 0x0120#16) none, Instr.errorClass 70#9 ⟨0, 0, 0, 0⟩], i.wf cfg = true) ∧
    ([Instr.op66 ⟨0, 0, 0, 0⟩ (some 0x0120#16) none, Instr.errorClass 70#9 ⟨0, 0, 0, 0⟩].flatMap (encode cfg)) = words ∧
    words.length = (view3 3).len.toNat ∧
    ∀ a ∈ List.range 3, words[a]? = some (codeAt cfg (at3 cfg words).mem (view3 3) a) := by decide

/-- One code at byte 3 and at byte 8, in different buffers. -/
theorem witness_SweepDependsOnTheCodeWordsAlone :
    (at3 cfg words).cfg = ((at3 cfg [0xFFFF#16]).loadRegion 8 words).cfg ∧ (at3 cfg words).code = some (view3 3) ∧
    ((at3 cfg [0xFFFF#16]).loadRegion 8 words).code = some ⟨8, 3#16⟩ ∧ (view3 3).len = (⟨8, 3#16⟩ : CodeView).len ∧
    (at3 cfg words).mem ≠ ((at3 cfg [0xFFFF#16]).loadRegion 8 words).mem ∧
    ∀ a ∈ List.range 3, codeAt cfg (at3 cfg words).mem (view3 3) a =
      codeAt cfg ((at3 cfg [0xFFFF#16]).loadRegion 8 words).mem ⟨8, 3#16⟩ a := by decide

end Sys2Proof.Tests
end

section
/-!
Proofs of the statements about the state and its code region (spec/10_state.md): DEC answers from the code words alone
(R29), and a supplied region is the region the block reads (R27, R31, R35).
-/

namespace Sys2Proof.Machine

/-- The steps of DEC after the operand word read two words at most: the instruction word, and the word at the next index
when that lies below LEN. -/
theorem decFinish_congr {c : Config} {m m' : Memory} {v v' : CodeView} {pos p : Nat} (hlen : v.len = v'.len)
    (hhead : codeAt c m v pos = codeAt c m' v' pos)
    (himm : p < v.len.toNat → codeAt c m v p = codeAt c m' v' p) (ow : Option Word) (regs : List RegIdx) :
    decFinish c m v pos p ow regs = decFinish c m' v' pos p ow regs := by
  unfold decFinish
  rw [← hlen, ← hhead]
  by_cases hp : p < v.len.toNat
  · rw [← himm hp]
  · simp only [if_pos (Nat.le_of_not_lt hp)]

/-- DEC reads the code region only at the cursor and the two indices after it, and there only below LEN (R29, R31). -/
theorem dec_congr {c : Config} {m m' : Memory} {v v' : CodeView} {pos : Nat} (hlen : v.len = v'.len)
    (hcode : ∀ a, pos ≤ a → a < pos + 3 → a < v.len.toNat → codeAt c m v a = codeAt c m' v' a) :
    dec c m v pos = dec c m' v' pos := by
  unfold dec
  rw [← hlen]
  by_cases hpos : v.len.toNat ≤ pos
  · simp only [if_pos hpos]
  · have hhead : codeAt c m v pos = codeAt c m' v' pos := hcode pos (by omega) (by omega) (by omega)
    have hnone : decFinish c m v pos (pos + 1) none [] = decFinish c m' v' pos (pos + 1) none [] :=
      decFinish_congr hlen hhead (hcode (pos + 1) (by omega) (by omega)) _ _
    rw [← hhead, hnone]
    by_cases hop : v.len.toNat ≤ pos + 1
    · simp only [if_pos hop]
    · have how : codeAt c m v (pos + 1) = codeAt c m' v' (pos + 1) := hcode (pos + 1) (by omega) (by omega) (by omega)
      have hsome : ∀ ow regs,
          decFinish c m v pos (pos + 2) ow regs = decFinish c m' v' pos (pos + 2) ow regs :=
        decFinish_congr hlen hhead (hcode (pos + 2) (by omega) (by omega))
      simp only [how, hsome]

/-- The block's access to a present region: the word at an index below LEN, and no word from LEN on (R31, R65). -/
theorem codeWord?_of_code {s : State} {v : CodeView} (h : s.code = some v) (i : Nat) :
    s.codeWord? i = if i < s.len then some (codeAt s.cfg s.mem v i) else none := by
  rw [len_of_code h]
  simp only [State.codeWord?, h]

/-- LEN of a supplied region is the number of words supplied, when 16 bits hold it (R27). -/
theorem loadRegion_len {s : State} {off : Nat} {ws : List Word} (hws : ws.length ≤ 65535) :
    (s.loadRegion off ws).len = ws.length := by
  rw [len_of_code (loadRegion_code s off ws), BitVec.toNat_ofNat]
  exact Nat.mod_eq_of_lt (Nat.lt_succ_of_le hws)

/-- The block reads a supplied region's words and no word beyond them (R31, R35). -/
theorem loadRegion_codeWord? {s : State} {off : Nat} {ws : List Word} (hmem : s.mem.wf) (hws : ws.length ≤ 65535)
    (i : Nat) : (s.loadRegion off ws).codeWord? i = ws[i]? := by
  rw [codeWord?_of_code (loadRegion_code s off ws), loadRegion_len hws]
  by_cases hi : i < ws.length
  · rw [if_pos hi, List.getElem?_eq_getElem hi]
    exact congrArg some (Memory.readWord_writeWords hmem hi)
  · rw [if_neg hi, List.getElem?_eq_none (Nat.le_of_not_lt hi)]

end Sys2Proof.Machine

namespace Sys2Proof
open Machine

/-- Settles O18: `dec_congr`, DEC's reads being at most the three words at the cursor, each below LEN. -/
theorem decIsAFunctionOfTheCodeWords : Obligations.DecIsAFunctionOfTheCodeWords := by
  intro c m m' v v' pos hlen hcode
  exact dec_congr hlen hcode

/-- Settles O23, from the laws of supplying a region and of the bytes its words are written to. -/
theorem suppliedRegionIsRead : Obligations.SuppliedRegionIsRead := by
  intro s off ws hmem hws
  refine ⟨loadRegion_len hws, loadRegion_codeWord? hmem hws, fun a ha => ?_, ?_⟩
  · exact Memory.read_writeWords_of_ne hmem ha
  · exact Memory.writeWords_wf hmem

end Sys2Proof
end

section
/-!
Proofs of the statements about the code region (spec/20_memory.md): a code word from its two bytes in either order (R35),
the words fetched at the cursor (R31), and that neither a step nor an instruction changes what the block reads (R23, R39).
-/

namespace Sys2Proof.Machine

/-- A word with one byte in its low half and one in its high half, as a number: the halves share no bit, so `or` adds. -/
theorem toNat_or_highByte (low high : Byte) :
    (low.setWidth 16 ||| (high.setWidth 16 <<< 8)).toNat = low.toNat + 256 * high.toNat := by
  have hlow : low.toNat < 2 ^ 8 := low.isLt
  have hhigh : high.toNat < 2 ^ 8 := high.isLt
  have hlowWord : (low.setWidth 16).toNat = low.toNat := BitVec.toNat_setWidth_of_le (by decide)
  have hhighWord : (high.setWidth 16 <<< 8).toNat = 2 ^ 8 * high.toNat := by
    rw [BitVec.toNat_shiftLeft, BitVec.toNat_setWidth_of_le (by decide), Nat.shiftLeft_eq]
    omega
  rw [BitVec.toNat_or, hlowWord, hhighWord, Nat.or_comm, ← Nat.two_pow_add_eq_or_of_lt hlow]
  omega

/-- Little: the byte at the lower address is the low half (R35). -/
theorem wordOfBytes_little_toNat (first second : Byte) :
    (wordOfBytes .little first second).toNat = first.toNat + 256 * second.toNat :=
  toNat_or_highByte first second

/-- Big: the byte at the lower address is the high half (R35). -/
theorem wordOfBytes_big_toNat (first second : Byte) :
    (wordOfBytes .big first second).toNat = second.toNat + 256 * first.toNat :=
  toNat_or_highByte second first

/-- A code word is put together from the bytes at `off + 2i` and `off + 2i + 1` (R35). -/
theorem codeAt_eq_wordOfBytes (c : Config) (m : Memory) (v : CodeView) (i : Nat) :
    codeAt c m v i = wordOfBytes c.byteOrder (m.read (v.off + 2 * i)) (m.read (v.off + 2 * i + 1)) := rfl

/-- Reading the places below `n` where only those below `b` can be read gives the places below both, in order. -/
theorem filterMap_range_lt {α : Type} (f : Nat → α) (n b : Nat) :
    (List.range n).filterMap (fun j => if j < b then some (f j) else none) = (List.range (min n b)).map f := by
  induction n with
  | zero => simp
  | succ n ih =>
    rw [List.range_succ, List.filterMap_append, ih]
    by_cases hn : n < b
    · rw [Nat.min_eq_left (Nat.le_of_lt hn), Nat.min_eq_left hn, List.range_succ]
      simp [hn]
    · rw [Nat.min_eq_right (Nat.le_of_not_lt hn), Nat.min_eq_right (by omega)]
      simp [hn]

/-- The words fetched at the cursor of a present region: the code words from CUR on, at most three and all below LEN. -/
theorem fetchWindow_of_code {s : State} {v : CodeView} (h : s.code = some v) :
    s.fetchWindow = (List.range (min 3 (v.len.toNat - s.cur))).map fun j => codeAt s.cfg s.mem v (s.cur + j) := by
  have hword : ∀ j, s.codeWord? (s.cur + j) =
      if j < v.len.toNat - s.cur then some (codeAt s.cfg s.mem v (s.cur + j)) else none := by
    intro j
    rw [codeWord?_of_code h, len_of_code h]
    exact if_congr (by omega) rfl rfl
  rw [← filterMap_range_lt, State.fetchWindow, List.filterMap_map]
  exact List.filterMap_congr fun j _ => hword j

/-- The block's access depends on the configuration, the memory and the region alone (R31). -/
theorem codeWord?_congr {s t : State} (hcfg : t.cfg = s.cfg) (hmem : t.mem = s.mem) (hcode : t.code = s.code) (i : Nat) :
    t.codeWord? i = s.codeWord? i := by
  unfold State.codeWord?
  rw [hcfg, hmem, hcode]

/-- An instruction's meaning leaves the configuration, the memory and the region as they are (R23, R39). -/
theorem exec_keeps_inputs {i : Instr} {s t : State} (h : exec i s = .next t) :
    t.cfg = s.cfg ∧ t.mem = s.mem ∧ t.code = s.code := by
  obtain ⟨u, hu, hkeep⟩ := exec_frame i s
  obtain rfl : u = t := Host.Outcome.next.inj (hu.symm.trans h)
  exact hkeep

/-- A step leaves the configuration, the memory and the region as they are, whichever of its cases it takes (R23, R39). -/
theorem step_keeps_inputs {s t : State} (h : step s = .next t) :
    t.cfg = s.cfg ∧ t.mem = s.mem ∧ t.code = s.code := by
  obtain ⟨-, -, ⟨-, rfl⟩ | ⟨v, -, ⟨-, rfl⟩ | ⟨-, i, -, hexec⟩ | ⟨-, e, -, rfl⟩⟩⟩ := step_cases h
  · simp
  · simp
  · exact exec_keeps_inputs hexec
  · simp

end Sys2Proof.Machine

namespace Sys2Proof
open Machine

/-- Settles O24, from the number of a word put together in each of the two byte orders. -/
theorem wordFromItsTwoBytes : Obligations.WordFromItsTwoBytes := by
  intro c m v i
  rw [codeAt_eq_wordOfBytes]
  constructor
  · intro hlittle
    rw [hlittle, wordOfBytes_little_toNat]
  · intro hbig
    rw [hbig, wordOfBytes_big_toNat]

/-- Settles O25: `fetchWindow_of_code`, read as a length and as its entries. -/
theorem fetchWindowIsTheRegionAtTheCursor : Obligations.FetchWindowIsTheRegionAtTheCursor := by
  intro s v hv
  rw [fetchWindow_of_code hv, List.length_map, List.length_range]
  refine ⟨rfl, fun j hj => ?_⟩
  rw [List.getElem?_map, List.getElem?_range hj, Option.map_some]

/-- Settles O39: `exec` is total by its frame lemma, and both a step and an instruction keep the three inputs from which
every code word is read. -/
theorem codeRegionNeverChanges : Obligations.CodeRegionNeverChanges := by
  constructor
  · intro i s
    obtain ⟨t, ht, -⟩ := exec_frame i s
    exact ⟨t, ht⟩
  · intro s t i h
    obtain ⟨hcfg, hmem, hcode⟩ := h.elim step_keeps_inputs exec_keeps_inputs
    exact ⟨hcode, hmem, hcfg, fun a => by rw [hmem], codeWord?_congr hcfg hmem hcode⟩

end Sys2Proof
end

section
/-!
Proofs of the statements about the encoding (spec/30_encoding.md): the modes and their count (R47, R61), the number of
words an instruction word asks for (R44, R45), what SIGN and the ignored flag bits change (R52), the bounds of the ids
(R54, R145), and the place of the immediate word (R51).
-/

namespace Sys2Proof

/-! ### Modes and their count -/

/-- The flag values 0 and 1 are those with bit 1 clear (R47). -/
theorem isRegFlag_eq_not_modeBit : ∀ f : Flag, Reference.isRegFlag f = !f.getLsbD 1 := by decide

/-- The mode by bit 1 of the flag is the mode by the flag's value (R47, R61). -/
theorem modeAt_eq_mode (n i : Nat) (f : Flag) : modeAt n i f = Reference.mode n i f := by
  unfold modeAt Reference.mode
  rw [isRegFlag_eq_not_modeBit]
  by_cases hi : i < n
  · rw [if_pos hi, if_neg (Nat.not_le_of_lt hi)]
    cases f.getLsbD 1 <;> rfl
  · rw [if_neg hi, if_pos (Nat.le_of_not_lt hi)]

/-- The mode of a position depends on bit 1 of its flag alone, and beyond the arity on nothing (R47, R72). -/
theorem modeAt_congr {n i : Nat} {f g : Flag} (h : i < n → f.getLsbD 1 = g.getLsbD 1) :
    modeAt n i f = modeAt n i g := by
  unfold modeAt
  by_cases hi : i < n
  · rw [if_pos hi, if_pos hi, Literal.modeBit, h hi]
  · rw [if_neg hi, if_neg hi]

/-- `k` is a function of the modes. -/
theorem regCount_congr {n : Nat} {h h' : Head} (hmodes : modesOf n h = modesOf n h') : regCount n h = regCount n h' := by
  unfold regCount
  rw [hmodes]

/-- The register-mode positions: below the arity, with flag 0 or 1 (R47, R61). -/
theorem modeAt_eq_reg_iff {n i : Nat} {f : Flag} : modeAt n i f = .reg ↔ i < n ∧ Reference.isRegFlag f = true := by
  rw [modeAt_eq_mode]
  unfold Reference.mode
  by_cases hi : i < n
  · simp [hi, Nat.not_le_of_lt hi]
  · simp [hi, Nat.le_of_not_lt hi]

/-- `k` counts the positions below the arity whose flag is 0 or 1 (R62). -/
theorem regCount_eq_count (n : Nat) (h : Head) : regCount n h = Reference.count n h := by
  simp only [regCount, modesOf, List.count_cons, List.count_nil, beq_iff_eq, modeAt_eq_reg_iff, Reference.count]
  omega

/-- `k` is at most the arity: each position counts once, and only below it. -/
theorem count_le_arity (n : Nat) (h : Head) : Reference.count n h ≤ n := by
  unfold Reference.count
  split_ifs <;> omega

/-! ### The number of words -/

/-- The size of R66's sum is the size of R44's table. -/
theorem size_eq_sizeOfShape (k : Nat) (isImm : Bool) : Reference.size k isImm = sizeOfShape k isImm := by
  cases k <;> cases isImm <;> simp [Reference.size, sizeOfShape]

/-- R66's sum, with the two optional words counted by the conditions under which the decoder takes them. -/
theorem sizeOfShape_eq_toNat (k : Nat) (isImm : Bool) :
    sizeOfShape k isImm = 1 + (decide (1 ≤ k)).toNat + isImm.toNat := by
  unfold sizeOfShape
  cases isImm <;> by_cases hk : 1 ≤ k <;> simp [hk]

/-- Where the instruction does not fit but all its words before the immediate do, the immediate is the one word missing. -/
theorem imm_missing_of_fit_before {len pos k : Nat} {isImm : Bool} (hlen : len < pos + sizeOfShape k isImm)
    (hfit : pos + sizeOfShape k false ≤ len) : isImm = true ∧ len = pos + sizeOfShape k false := by
  have hone : sizeOfShape k true = sizeOfShape k false + 1 := rfl
  cases isImm with
  | false => omega
  | true => exact ⟨rfl, by omega⟩

/-- A word that is needed and there, or that is not needed, is taken from the front. -/
theorem takeWord_of_le {needed : Bool} {ws : List Word} (h : needed.toNat ≤ ws.length) :
    ∃ w, takeWord needed ws = some (w, ws.drop needed.toNat) := by
  cases needed with
  | false => exact ⟨none, takeWord_false ws⟩
  | true =>
    cases ws with
    | nil => simp at h
    | cons w ws => exact ⟨some w, rfl⟩

/-- A word can only be missing where no word is left. -/
theorem takeWord_of_lt {needed : Bool} {ws : List Word} (h : ws.length < needed.toNat) : takeWord needed ws = none := by
  cases needed with
  | false => simp at h
  | true => rw [List.eq_nil_of_length_eq_zero (Nat.lt_one_iff.mp h), takeWord_true_nil]

/-- With enough words there, decode takes as many as the instruction word's size says (R45). -/
theorem decode_cons_of_size_le {c : Config} {w : Word} {rest : List Word} {k : Nat}
    (hk : regCount (c.arity (opcodeField w)) (headField w) = k)
    (h : sizeOfShape k (c.isImmCopy (opcodeField w)) ≤ rest.length + 1) :
    ∃ i, decode c (w :: rest) = .ok (i, (w :: rest).drop (sizeOfShape k (c.isImmCopy (opcodeField w)))) := by
  rw [sizeOfShape_eq_toNat] at h ⊢
  generalize hneed : decide (1 ≤ k) = needOw at h ⊢
  obtain ⟨ow, how⟩ := takeWord_of_le (needed := needOw) (ws := rest) (by omega)
  obtain ⟨imm, himm⟩ := takeWord_of_le (needed := c.isImmCopy (opcodeField w)) (ws := rest.drop needOw.toNat)
    (by rw [List.length_drop]; omega)
  refine ⟨instrOf c (opcodeField w) (headField w) ow imm, ?_⟩
  simp only [decode, hk, hneed, how, himm]
  rw [List.drop_drop, Nat.add_assoc, Nat.add_comm 1, List.drop_succ_cons]

/-- With too few words there, decode is truncated at the first index beyond them (R65). -/
theorem decode_cons_of_lt_size {c : Config} {w : Word} {rest : List Word} {k : Nat}
    (hk : regCount (c.arity (opcodeField w)) (headField w) = k)
    (h : rest.length + 1 < sizeOfShape k (c.isImmCopy (opcodeField w))) :
    decode c (w :: rest) = .error (.truncated (rest.length + 1)) := by
  have hshort := sizeOfShape_eq_toNat k false
  rw [sizeOfShape_eq_toNat] at h
  generalize hneed : decide (1 ≤ k) = needOw at h hshort
  have himmLe : (c.isImmCopy (opcodeField w)).toNat ≤ 1 := Bool.toNat_le _
  have howLe : needOw.toNat ≤ 1 := Bool.toNat_le _
  by_cases hmissing : rest.length < needOw.toNat
  · have hnone : rest.length = 0 := by omega
    simp only [decode, hk, hneed, takeWord_of_lt hmissing, hnone]
  · obtain ⟨ow, how⟩ := takeWord_of_le (Nat.le_of_not_lt hmissing)
    have hlast : rest.length = needOw.toNat := by omega
    have himm : takeWord (c.isImmCopy (opcodeField w)) (rest.drop needOw.toNat) = none :=
      takeWord_of_lt (by rw [List.length_drop]; omega)
    simp only [decode, hk, hneed, how, himm, hshort, hlast, Bool.toNat_false, Nat.add_zero, Nat.add_comm 1]

/-! ### The raw fields -/

/-- The instruction word is the sum of its fields at their places (R46). -/
theorem headWord_eq_instructionWord (op : OpId) (h : Head) : headWord op h = Reference.instructionWord op.toNat h := by
  have h0 := h.aflg0.toNat_lt
  have h1 := h.aflg1.toNat_lt
  have h2 := h.aflg2.toNat_lt
  have hs := h.sign.toNat_lt
  have hop := op.toNat_lt
  apply BitVec.eq_of_toNat_eq
  rw [headWord_eq_append]
  simp only [BitVec.toNat_append, Reference.instructionWord, BitVec.toNat_ofNat]
  rw [← Nat.shiftLeft_add_eq_or_of_lt h.aflg1.isLt, ← Nat.shiftLeft_add_eq_or_of_lt h.aflg2.isLt,
    ← Nat.shiftLeft_add_eq_or_of_lt h.sign.isLt, ← Nat.shiftLeft_add_eq_or_of_lt op.isLt]
  simp only [Nat.shiftLeft_eq, Literal.wordBits, Literal.signBits, Literal.flagBits, Literal.opBits]
  omega

end Sys2Proof

namespace Sys2Proof.Machine

/-- A record with the raw fields of another instruction word of its opcode: the word, its three flags and its SIGN. -/
def Decoded.withHead (d : Decoded) (h : Head) : Decoded :=
  { d with word := headWord d.op h, aflg0 := h.aflg0, aflg1 := h.aflg1, aflg2 := h.aflg2, sign := h.sign }

/-- Raw fields with the same modes make records that differ in the raw fields alone. -/
theorem recordOf_withHead {c : Config} {op : OpId} {h h' : Head}
    (hmodes : modesOf (c.arity op) h = modesOf (c.arity op) h') (pos : Nat) (ow imm : Option Word) :
    (recordOf c pos op h ow imm).withHead h' = recordOf c pos op h' ow imm := by
  have hk := regCount_congr hmodes
  simp only [modesOf, List.cons.injEq, and_true] at hmodes
  obtain ⟨h0, h1, h2⟩ := hmodes
  simp only [recordOf, Decoded.withHead, hk, h0, h1, h2]

/-- Raw fields with the same modes decode alike: to one fault, or to records that differ in the raw fields alone. -/
theorem decodeFields_withHead {c : Config} {op : OpId} {h h' : Head}
    (hmodes : modesOf (c.arity op) h = modesOf (c.arity op) h') (len pos : Nat) (ow imm : Option Word) :
    decodeFields c len pos op h' ow imm = (decodeFields c len pos op h ow imm).map (·.withHead h') := by
  have hk := regCount_congr hmodes
  unfold decodeFields
  rw [hk]
  split_ifs
  · rfl
  cases trailingWord (decide (1 ≤ regCount (c.arity op) h')) (pos + 1) len ow with
  | none => rfl
  | some taken =>
    obtain ⟨ow', p⟩ := taken
    dsimp only
    cases trailingWord (c.isImmCopy op) p len imm with
    | none => rfl
    | some last => exact congrArg Except.ok (recordOf_withHead hmodes pos ow' last.1).symm

/-- An optional word that is there exactly under `b`, and then as given. -/
theorem eq_ite_none_of_isSome {α : Type} {x y : Option α} {b : Bool} (hb : x.isSome = b)
    (hxy : x.isSome = true → x = y) : x = if b then y else none := by
  cases b with
  | false => exact Option.isNone_iff_eq_none.mp (Option.isSome_eq_false_iff.mp hb)
  | true => exact hxy hb

/-- A record that `decodeFields` answers is the record of R67, with the operand word exactly when k ≥ 1 and the immediate
exactly for IMM_COPY_ID, each as given. -/
theorem eq_recordOf_of_decodeFields {c : Config} {len pos : Nat} {op : OpId} {h : Head} {ow imm : Option Word}
    {d : Decoded} (hd : decodeFields c len pos op h ow imm = .ok d) :
    d = recordOf c pos op h (if 1 ≤ regCount (c.arity op) h then ow else none) (if c.isImmCopy op then imm else none) := by
  rcases decodeFields_cases c len pos op h ow imm with
    ⟨-, e⟩ | ⟨-, j, e⟩ | ⟨-, ow', imm', how, himm, howEq, himmEq, e⟩ <;> rw [e] at hd
  · contradiction
  · contradiction
  · obtain rfl := Except.ok.inj hd
    rw [eq_ite_none_of_isSome how howEq, eq_ite_none_of_isSome himm himmEq]
    simp only [decide_eq_true_eq]

/-! ### What DEC answers -/

/-- The mode by R71's mask is the mode by bit 1 of the flag. -/
theorem decMode_eq_modeAt (n i : Nat) (f : Flag) : decMode n i f = modeAt n i f := by
  have hmask : ∀ f : Flag, (f &&& modeMask = 0) ↔ f.getLsbD Literal.modeBit = false := by decide
  unfold decMode modeAt
  simp only [hmask]
  cases f.getLsbD Literal.modeBit <;> rfl

/-- R71's sum over the three positions is their count. -/
theorem decCount_eq_regCount (n : Nat) (h : Head) :
    decCount (modeAt n 0 h.aflg0) (modeAt n 1 h.aflg1) (modeAt n 2 h.aflg2) = regCount n h := by
  simp only [decCount, regCount, modesOf, List.count_cons, List.count_nil, beq_iff_eq]
  omega

section
variable {c : Config} {m : Memory} {v : CodeView} {pos k : Nat} {w : Word}

/-- DEC's last steps for an opcode without an immediate: the record, and no further word (R64, R67). -/
theorem decFinish_of_not_imm (hw : codeAt c m v pos = w) (hk : regCount (c.arity (opcodeField w)) (headField w) = k)
    (hi : c.isImmCopy (opcodeField w) = false) (ow : Option Word) :
    decFinish c m v pos (pos + sizeOfShape k false) ow (recordOf c pos (opcodeField w) (headField w) ow none).regs =
      .ok (recordOf c pos (opcodeField w) (headField w) ow none, sizeOfShape k false) := by
  subst hw hk
  unfold decFinish
  rw [if_neg (of_decide_eq_false hi)]
  simp only [decCount_eq_regCount, decMode_eq_modeAt, recordOf, headWord_fields, hi, Nat.add_sub_cancel_left]

/-- DEC's last steps for IMM_COPY_ID with a word left: the record with that word (R64, R67). -/
theorem decFinish_of_imm (hw : codeAt c m v pos = w) (hk : regCount (c.arity (opcodeField w)) (headField w) = k)
    (hi : c.isImmCopy (opcodeField w) = true) (hp : pos + sizeOfShape k false < v.len.toNat) (ow imm : Option Word) :
    decFinish c m v pos (pos + sizeOfShape k false) ow (recordOf c pos (opcodeField w) (headField w) ow imm).regs =
      .ok (recordOf c pos (opcodeField w) (headField w) ow (some (codeAt c m v (pos + sizeOfShape k false))),
        sizeOfShape k true) := by
  subst hw hk
  unfold decFinish
  rw [if_pos (of_decide_eq_true hi), if_neg (Nat.not_le_of_lt hp)]
  simp only [decCount_eq_regCount, decMode_eq_modeAt, recordOf, headWord_fields, hi, Nat.add_assoc pos,
    Nat.add_sub_cancel_left]
  rfl

/-- DEC's last steps for IMM_COPY_ID with no word left: truncated there (R64, R65). -/
theorem decFinish_of_imm_missing (hw : codeAt c m v pos = w) (hi : c.isImmCopy (opcodeField w) = true) {p : Nat}
    (hp : v.len.toNat ≤ p) (ow : Option Word) (regs : List RegIdx) :
    decFinish c m v pos p ow regs = .error (truncatedFault pos p v.len.toNat) := by
  subst hw
  unfold decFinish
  rw [if_pos (of_decide_eq_true hi), if_pos hp]

/-- DEC below LEN: the operand word exactly when k ≥ 1, then the last steps (R62, R63). -/
theorem dec_of_lt (hw : codeAt c m v pos = w) (hk : regCount (c.arity (opcodeField w)) (headField w) = k)
    (hpos : pos < v.len.toNat) :
    dec c m v pos =
      if 1 ≤ k then
        if v.len.toNat ≤ pos + 1 then .error (truncatedFault pos (pos + 1) v.len.toNat)
        else decFinish c m v pos (pos + 2) (some (codeAt c m v (pos + 1)))
          (unpack c.nibbleOrder (codeAt c m v (pos + 1)) k)
      else decFinish c m v pos (pos + 1) none [] := by
  subst hw hk
  unfold dec
  rw [if_neg (Nat.not_le_of_lt hpos)]
  simp only [decCount_eq_regCount, decMode_eq_modeAt]

/-- The last steps of DEC on an instruction that fits: the record with the trailing words of R44, and the size. -/
theorem decFinish_of_fit (hw : codeAt c m v pos = w) (hk : regCount (c.arity (opcodeField w)) (headField w) = k)
    (hfit : pos + sizeOfShape k (c.isImmCopy (opcodeField w)) ≤ v.len.toNat) (ow imm : Option Word) :
    decFinish c m v pos (pos + sizeOfShape k false) ow (recordOf c pos (opcodeField w) (headField w) ow imm).regs =
      .ok (recordOf c pos (opcodeField w) (headField w) ow
        (if c.isImmCopy (opcodeField w) then some (codeAt c m v (pos + sizeOfShape k false)) else none),
        sizeOfShape k (c.isImmCopy (opcodeField w))) := by
  cases hi : c.isImmCopy (opcodeField w) with
  | false => exact decFinish_of_not_imm hw hk hi ow
  | true =>
    rw [hi] at hfit
    exact decFinish_of_imm hw hk hi hfit ow imm

/-- DEC on an instruction that fits the region: its record, with the operand word at the next index exactly when k ≥ 1 and
the immediate after it exactly for IMM_COPY_ID (R65, R67). -/
theorem dec_of_fit (hw : codeAt c m v pos = w) (hk : regCount (c.arity (opcodeField w)) (headField w) = k)
    (hfit : pos + sizeOfShape k (c.isImmCopy (opcodeField w)) ≤ v.len.toNat) :
    dec c m v pos = .ok (recordOf c pos (opcodeField w) (headField w)
      (if 1 ≤ k then some (codeAt c m v (pos + 1)) else none)
      (if c.isImmCopy (opcodeField w) then some (codeAt c m v (pos + sizeOfShape k false)) else none),
      sizeOfShape k (c.isImmCopy (opcodeField w))) := by
  have hsize := sizeOfShape_eq_toNat k (c.isImmCopy (opcodeField w))
  rw [dec_of_lt hw hk (by omega)]
  by_cases h1 : 1 ≤ k
  · rw [decide_eq_true h1, Bool.toNat_true] at hsize
    have hfinish := decFinish_of_fit hw hk hfit (some (codeAt c m v (pos + 1))) none
    rw [if_pos h1, if_neg (by omega), if_pos h1, ← hfinish, sizeOfShape_false, if_pos h1, ← hk]
    rfl
  · have hfinish := decFinish_of_fit hw hk hfit none none
    rw [if_neg h1, if_neg h1, ← hfinish, sizeOfShape_false, if_neg h1]
    rfl

/-- DEC on an instruction that reaches past the region's end: truncated, the missing index being LEN (R65, R149). -/
theorem dec_of_truncated (hw : codeAt c m v pos = w) (hk : regCount (c.arity (opcodeField w)) (headField w) = k)
    (hpos : pos < v.len.toNat) (hlen : v.len.toNat < pos + sizeOfShape k (c.isImmCopy (opcodeField w))) :
    dec c m v pos = .error (truncatedFault pos v.len.toNat v.len.toNat) := by
  have himm := imm_missing_of_fit_before hlen
  rw [sizeOfShape_false] at himm
  rw [dec_of_lt hw hk hpos]
  by_cases h1 : 1 ≤ k
  · rw [if_pos h1] at himm ⊢
    by_cases how : v.len.toNat ≤ pos + 1
    · rw [if_pos how, Nat.le_antisymm how hpos]
    · obtain ⟨hi, hlast⟩ := himm (by omega)
      rw [if_neg how, decFinish_of_imm_missing hw hi (Nat.le_of_eq hlast), hlast]
  · rw [if_neg h1] at himm ⊢
    obtain ⟨hi, hlast⟩ := himm (by omega)
    rw [decFinish_of_imm_missing hw hi (Nat.le_of_eq hlast), hlast]

/-- All that DEC can answer with a record: the instruction fits the region, and the record and the size are `dec_of_fit`'s. -/
theorem dec_eq_ok {d : Decoded} {size : Nat} (hw : codeAt c m v pos = w)
    (hk : regCount (c.arity (opcodeField w)) (headField w) = k) (hdec : dec c m v pos = .ok (d, size)) :
    pos + size ≤ v.len.toNat ∧ size = sizeOfShape k (c.isImmCopy (opcodeField w)) ∧
      d = recordOf c pos (opcodeField w) (headField w) (if 1 ≤ k then some (codeAt c m v (pos + 1)) else none)
        (if c.isImmCopy (opcodeField w) then some (codeAt c m v (pos + sizeOfShape k false)) else none) := by
  by_cases hpos : v.len.toNat ≤ pos
  · unfold dec at hdec
    rw [if_pos hpos] at hdec
    contradiction
  by_cases hfit : pos + sizeOfShape k (c.isImmCopy (opcodeField w)) ≤ v.len.toNat
  · rw [dec_of_fit hw hk hfit] at hdec
    obtain ⟨rfl, rfl⟩ := Prod.mk.inj (Except.ok.inj hdec)
    exact ⟨hfit, rfl, rfl⟩
  · rw [dec_of_truncated hw hk (Nat.lt_of_not_le hpos) (Nat.lt_of_not_le hfit)] at hdec
    contradiction

end

end Sys2Proof.Machine

namespace Sys2Proof
open Machine

/-! ### The bounds of the ids -/

/-- The unpopulated ids: the gap below the high block but S1 and S2, and everything above the block (R91, R144). -/
theorem populatedId_eq_false_iff {c : Config} {id : Nat} : c.populatedId id = false ↔
    39 ≤ id ∧ id ≠ c.s1 ∧ id ≠ c.s2 ∧ (id < c.highBase ∨ c.highBase + 4 ≤ id) := by
  rw [Bool.eq_false_iff, Ne, populatedId_iff]
  omega

/-! ### The statements -/

/-- Settles O4, from the two laws of decode on a list long enough and on one too short. -/
theorem decodeLengthFromFirstWord : Obligations.DecodeLengthFromFirstWord := by
  intro c w rest
  refine ⟨rfl, ?_⟩
  rw [← regCount_eq_count, size_eq_sizeOfShape]
  exact ⟨decode_cons_of_size_le rfl, decode_cons_of_lt_size rfl⟩

/-- Settles O6, from the mode and the count by the flag's value. -/
theorem registerModeIsFlagBitOne : Obligations.RegisterModeIsFlagBitOne := by
  intro n h
  refine ⟨?_, regCount_eq_count n h, ?_⟩
  · simp only [modesOf, modeAt_eq_mode]
  · rw [regCount_eq_count]
    exact count_le_arity n h

/-- Settles O7: the flags' agreement in bit 1 makes the modes equal, and then only the raw fields can differ. -/
theorem signAndIgnoredFlagsChangeNoShape : Obligations.SignAndIgnoredFlagsChangeNoShape := by
  intro c len pos op h h' ow imm h0 h1 h2
  have hmodes : modesOf (c.arity op) h = modesOf (c.arity op) h' := by
    simp only [modesOf, modeAt_congr h0, modeAt_congr h1, modeAt_congr h2]
  have hmap := decodeFields_withHead hmodes len pos ow imm
  cases hd : decodeFields c len pos op h ow imm with
  | error f =>
    rw [hd] at hmap
    exact Or.inl ⟨f, rfl, hmap⟩
  | ok d =>
    rw [hd] at hmap
    obtain rfl := eq_recordOf_of_decodeFields hd
    refine Or.inr ⟨_, rfl, headWord_eq_instructionWord op h, rfl, ?_⟩
    rw [← headWord_eq_instructionWord]
    exact hmap

/-- Settles O14, from the bounds that well-formedness puts on the ids and the classes of populated ids. -/
theorem idBoundsOfEveryConfiguration : Obligations.IdBoundsOfEveryConfiguration := by
  intro c hwf
  have hb := Config.wf_bounds hwf
  have himm := Config.wf_imm hwf
  refine ⟨fun op hop => ?low, ⟨?known, ?knownArity⟩, fun op hop => ?above, ?singletons, fun op hop => ?immCopy,
    fun op hop => ?sentinel, fun op hop => ?error⟩
  case low => exact populatedId_iff.mpr (Or.inl (by omega))
  case known => exact populatedId_iff.mpr (Or.inr (Or.inr (Or.inr (by change _ ≤ 66 ∧ 66 < _; omega))))
  case knownArity => exact arityId_high hwf (by change _ ≤ 66 ∧ 66 < _; omega)
  case above => exact populatedId_eq_false_iff.mpr (by omega)
  case singletons => omega
  case immCopy =>
    unfold Config.populated Config.arity
    rw [hop]
    exact ⟨himm.1, himm.2, immCopyId_le hwf⟩
  case sentinel =>
    unfold Config.populated
    rw [hop, sentinel_not_populated hwf]
  case error =>
    have hp : c.populatedId op.toNat = false := populatedId_eq_false_iff.mpr (by omega)
    exact ⟨by omega, by omega, hp, arityId_of_not_populated hp, mnemId_of_not_populated hp⟩

/-- Settles O21, from all that DEC can answer with a record: the immediate stands after the instruction word and the operand
word, which with it make up the size. -/
theorem immediateIsTheLastWordVerbatim : Obligations.ImmediateIsTheLastWordVerbatim := by
  intro c m v pos d size hdec
  obtain ⟨-, rfl, rfl⟩ := dec_eq_ok rfl rfl hdec
  generalize hk : regCount (c.arity (opcodeField (codeAt c m v pos))) (headField (codeAt c m v pos)) = k
  have hplace : pos + sizeOfShape k false = if 1 ≤ k then pos + 2 else pos + 1 := by
    rw [sizeOfShape_false]
    split_ifs <;> rfl
  simp only [recordOf, hk, ← hplace, Config.isImmCopy, decide_eq_true_eq, true_and]
  intro hop
  rw [decide_eq_true hop]
  rfl

end Sys2Proof
end

section
/-!
Proofs of the statements about the decode unit (spec/40_decode.md): the split of the instruction word (R59), the position an
index belongs to (R69), and the record, the size and the register list that DEC answers (R65 to R68).
-/

namespace Sys2Proof

/-! ### The fields of the instruction word -/

/-- A field taken out of a word, as a number: the word divided down to the field's place and reduced to its width. -/
theorem extractLsb'_toNat_eq_div_mod {n : Nat} (w : BitVec n) (lo width : Nat) :
    (w.extractLsb' lo width).toNat = w.toNat / 2 ^ lo % 2 ^ width := by
  rw [BitVec.extractLsb'_toNat, Nat.shiftRight_eq_div_pow]

/-! ### Register-mode positions in order -/

/-- The register-mode positions in increasing order, of which `posOf` takes the `j`-th (R69). -/
def regPositions (modes : List Mode) : List Nat :=
  (List.range modes.length).filter fun i => modes[i]? == some Mode.reg

theorem posOf_eq_getElem? (modes : List Mode) (j : Nat) : posOf modes j = (regPositions modes)[j]? := rfl

theorem mem_regPositions {modes : List Mode} {p : Nat} : p ∈ regPositions modes ↔ modes[p]? = some .reg := by
  unfold regPositions
  rw [List.mem_filter, List.mem_range, beq_iff_eq, and_iff_right_iff_imp]
  intro hp
  exact (List.getElem?_eq_some_iff.mp hp).1

theorem regPositions_increasing (modes : List Mode) : (regPositions modes).Pairwise (· < ·) :=
  List.pairwise_lt_range.filter _

/-- There are as many register-mode positions as modes that are `reg`. -/
theorem regPositions_length (modes : List Mode) : (regPositions modes).length = modes.count .reg := by
  unfold regPositions
  rw [← List.countP_eq_length_filter]
  induction modes with
  | nil => rfl
  | cons mode modes ih =>
    rw [List.length_cons, List.range_succ_eq_map, List.countP_cons, List.countP_map, List.count_cons, ← ih]
    rfl

/-- Only a position below the arity is in register mode (R61). -/
theorem lt_arity_of_modesOf_eq_reg {n p : Nat} {h : Head} (hp : (modesOf n h)[p]? = some .reg) : p < n := by
  match p with
  | 0 => exact (modeAt_eq_reg_iff.mp (Option.some.inj hp)).1
  | 1 => exact (modeAt_eq_reg_iff.mp (Option.some.inj hp)).1
  | 2 => exact (modeAt_eq_reg_iff.mp (Option.some.inj hp)).1
  | _ + 3 => contradiction

/-! ### The count of register-mode positions -/

/-- There are three flags, so `k` is at most 3, whatever the arity. -/
theorem regCount_le_three (n : Nat) (h : Head) : regCount n h ≤ 3 := List.count_le_length

/-- Only a position below the arity has a mode, and only one (R61). -/
theorem regCount_add_nonRegCount_le (n : Nat) (h : Head) : regCount n h + (modesOf n h).count .nonReg ≤ n := by
  have hone (i : Nat) (f : Flag) :
      (if modeAt n i f = .reg then 1 else 0) + (if modeAt n i f = .nonReg then 1 else 0) = if i < n then 1 else 0 := by
    unfold modeAt
    by_cases hi : i < n
    · cases hf : f.getLsbD Literal.modeBit <;> simp [hi]
    · simp [hi]
  have h0 := hone 0 h.aflg0
  have h1 := hone 1 h.aflg1
  have h2 := hone 2 h.aflg2
  have hbelow : (if 0 < n then 1 else 0) + (if 1 < n then 1 else 0) + (if 2 < n then 1 else 0) ≤ n := by
    split_ifs <;> omega
  simp only [regCount, modesOf, List.count_cons, List.count_nil, beq_iff_eq]
  omega

/-- A non-register position below the arity leaves fewer register-mode positions than operands (R62). -/
theorem regCount_lt_of_nonReg {n : Nat} {h : Head} (hmode : Mode.nonReg ∈ modesOf n h) : regCount n h < n := by
  have hsum := regCount_add_nonRegCount_le n h
  have hpos := List.count_pos_iff.mpr hmode
  omega

/-! ### The size by its two conditions -/

theorem isImmCopy_eq_true_iff {c : Config} {op : OpId} : c.isImmCopy op = true ↔ op.toNat = c.immCopyId :=
  decide_eq_true_iff

theorem isImmCopy_eq_false_iff {c : Config} {op : OpId} : c.isImmCopy op = false ↔ op.toNat ≠ c.immCopyId :=
  decide_eq_false_iff_not

theorem sizeOfShape_eq_one_iff {k : Nat} {isImm : Bool} : sizeOfShape k isImm = 1 ↔ k = 0 ∧ isImm = false := by
  cases isImm <;> cases k <;> simp [sizeOfShape]

theorem sizeOfShape_eq_two_iff {k : Nat} {isImm : Bool} :
    sizeOfShape k isImm = 2 ↔ (1 ≤ k ∧ isImm = false) ∨ (k = 0 ∧ isImm = true) := by
  cases isImm <;> cases k <;> simp [sizeOfShape]

theorem sizeOfShape_eq_three_iff {k : Nat} {isImm : Bool} : sizeOfShape k isImm = 3 ↔ 1 ≤ k ∧ isImm = true := by
  cases isImm <;> cases k <;> simp [sizeOfShape]

/-- The immediate, where there is one, is the last of the instruction's words (R44, R51). -/
theorem immWord_eq_lastWord (code : Nat → Word) (pos k : Nat) (isImm : Bool) :
    (if isImm = true then some (code (pos + sizeOfShape k false)) else none) =
      if isImm = true then some (code (pos + sizeOfShape k isImm - 1)) else none := by
  cases isImm <;> rfl

/-! ### The indices and their names -/

/-- The unpacker answers `k` indices, whatever the operand word (R73). -/
@[simp] theorem unpack_length (o : NibbleOrder) (ow : Word) (k : Nat) : (unpack o ow k).length = k := by simp [unpack]

/-- The unpacker's shifts are the layouts of R75, R76 and R77. -/
theorem unpack_eq_indices (o : NibbleOrder) (ow : Word) {k : Nat} (hpos : 1 ≤ k) (hmax : k ≤ 3) :
    unpack o ow k = Reference.indices o k ow := by
  match k with
  | 1 => cases o <;> rfl
  | 2 => cases o <;> rfl
  | 3 => cases o <;> rfl

/-- The register namer is the table of R79. -/
theorem nameOf_eq_name (c : Config) (r : RegIdx) : c.nameOf r = Reference.name c r := by
  obtain ⟨⟨index, hlt⟩⟩ := r
  have hlt16 : index < 16 := hlt
  interval_cases index <;> rfl

/-- The rows of the register namer that name no register (R79). -/
theorem nameOf_eq_nilName {c : Config} {r : RegIdx} (hr : r.toNat = 0 ∨ 7 ≤ r.toNat) : c.nameOf r = c.nilName := by
  unfold Config.nameOf
  exact dif_neg (by change ¬ (1 ≤ _ ∧ _ < 1 + 6); omega)

end Sys2Proof

namespace Sys2Proof.Machine

/-! ### The record -/

/-- The reference record of R67 is the model's, when an operand word is there only for `k ≥ 1`. -/
theorem recordOf_eq_record {c : Config} {op : OpId} {h : Head} {ow : Option Word}
    (how : ow.isSome = true → 1 ≤ regCount (c.arity op) h) (pos : Nat) (imm : Option Word) :
    recordOf c pos op h ow imm =
      Reference.record c pos op.toNat (c.arity op) (c.mnem op) (c.populated op) h ow imm := by
  have hnames : c.nameOf = Reference.name c := funext (nameOf_eq_name c)
  have hop : BitVec.ofNat 9 op.toNat = op := (BitVec.ofNat_toNat 9 op).trans (BitVec.setWidth_eq op)
  have hregs : (recordOf c pos op h ow imm).regs =
      Reference.regsOf c.nibbleOrder (regCount (c.arity op) h) ow := by
    cases ow with
    | none => rfl
    | some w => exact unpack_eq_indices c.nibbleOrder w (how rfl) (regCount_le_three _ h)
  simp only [recordOf] at hregs
  simp only [recordOf, Reference.record, hregs, hnames, hop, modeAt_eq_mode, ← regCount_eq_count, size_eq_sizeOfShape,
    headWord_eq_instructionWord, Config.isImmCopy]

/-- The register list has `k` entries when the operand word is there for every `k ≥ 1` and only then (R68). -/
theorem recordOf_regs_length {c : Config} {op : OpId} {h : Head} {ow : Option Word}
    (how : ow.isSome = true ↔ 1 ≤ regCount (c.arity op) h) (pos : Nat) (imm : Option Word) :
    (recordOf c pos op h ow imm).regs.length = regCount (c.arity op) h := by
  cases ow with
  | none => exact (Nat.lt_one_iff.mp (Nat.lt_of_not_le (mt how.mpr Bool.false_ne_true))).symm
  | some w => exact unpack_length c.nibbleOrder w _

end Sys2Proof.Machine

namespace Sys2Proof
open Machine

/-! ### The statements -/

/-- Settles O16: `dec_of_fit`, its record being that of R67 and its immediate the last word of the size. -/
theorem decOfFittingInstruction : Obligations.DecOfFittingInstruction := by
  intro c m v pos
  dsimp only
  rw [← regCount_eq_count, size_eq_sizeOfShape]
  intro hfit
  rw [← recordOf_eq_record Option.isSome_ite.mp]
  refine (dec_of_fit rfl rfl hfit).trans ?_
  rw [immWord_eq_lastWord (codeAt c m v)]
  rfl

/-- Settles O12: `posOf` reads the increasing list of the register-mode positions, which has `k` entries. -/
theorem positionOfIndex : Obligations.PositionOfIndex := by
  intro n h
  refine ⟨fun j => ?inRange, fun j p hp => ?position, fun j j' p p' hp hp' hlt => ?increasing, fun h0 h1 => ?second⟩
  case inRange => rw [posOf_eq_getElem?, isSome_getElem?, regPositions_length, regCount]
  case position =>
    rw [posOf_eq_getElem?] at hp
    have hreg := mem_regPositions.mp (List.mem_of_getElem? hp)
    exact ⟨lt_arity_of_modesOf_eq_reg hreg, hreg⟩
  case increasing =>
    obtain ⟨hj, rfl⟩ := List.getElem?_eq_some_iff.mp hp
    obtain ⟨hj', rfl⟩ := List.getElem?_eq_some_iff.mp hp'
    exact List.pairwise_iff_getElem.mp (regPositions_increasing _) j j' hj hj' hlt
  case second =>
    have hmodes : modesOf 2 h = [.nonReg, .reg, .none] := by
      simp only [modesOf, modeAt, Literal.modeBit, h0, h1]
      rfl
    rw [hmodes]
    rfl

/-- Settles O19: every record of DEC is that of an instruction which fits, and its size is the sum of R66. -/
theorem decSizes : Obligations.DecSizes := by
  intro c m v pos d size hdec
  obtain ⟨hfit, rfl, rfl⟩ := dec_eq_ok rfl rfl hdec
  refine ⟨rfl, hfit, ?one, ?two, ?three, fun s => rfl⟩
  case one => exact sizeOfShape_eq_one_iff.trans (and_congr_right' isImmCopy_eq_false_iff)
  case two =>
    exact sizeOfShape_eq_two_iff.trans
      (or_congr (and_congr_right' isImmCopy_eq_false_iff) (and_congr_right' isImmCopy_eq_true_iff))
  case three => exact sizeOfShape_eq_three_iff.trans (and_congr_right' isImmCopy_eq_true_iff)

/-- Settles O20: every record of DEC has its operand word exactly for `k ≥ 1`, so as many indices as register-mode
positions, and each index keeps its entry under its name. -/
theorem decodedRegisterListHasKEntries : Obligations.DecodedRegisterListHasKEntries := by
  intro c m v pos d size hdec
  obtain ⟨-, -, hd⟩ := dec_eq_ok rfl rfl hdec
  have hlength : d.regs.length = d.k := by
    rw [hd]
    exact recordOf_regs_length Option.isSome_ite pos _
  subst hd
  refine ⟨hlength, rfl, ?arity, fun hmode => ?fewer, ?names, fun j r hr hnil => ?nilName⟩
  case arity => exact (regCount_eq_count _ _).trans_le (count_le_arity _ _)
  case fewer => exact hlength.trans_lt (regCount_lt_of_nonReg hmode)
  case names => exact congrArg (List.map · _) (funext (nameOf_eq_name c))
  case nilName =>
    rw [← nameOf_eq_nilName (c := c) hnil]
    exact (List.getElem?_map ..).trans (congrArg (Option.map c.nameOf) hr)

/-- Settles O1: each field is a division and a reduction of the word, and putting the fields together gives the word again. -/
theorem instructionWordSplit : Obligations.InstructionWordSplit := by
  intro w
  have hw := w.toNat_lt
  refine ⟨?aflg0, ?aflg1, ?aflg2, ?sign, ?opcode, ?recombined, headWord_fields w⟩
  case aflg0 => exact (extractLsb'_toNat_eq_div_mod w 14 2).trans (Nat.mod_eq_of_lt (by omega))
  case aflg1 => exact extractLsb'_toNat_eq_div_mod w 12 2
  case aflg2 => exact extractLsb'_toNat_eq_div_mod w 10 2
  case sign => exact extractLsb'_toNat_eq_div_mod w 9 1
  case opcode => exact (extractLsb'_toNat_eq_div_mod w 0 9).trans (by rw [Nat.pow_zero, Nat.div_one])
  case recombined => rw [← headWord_eq_instructionWord, headWord_fields]

end Sys2Proof
end

section
/-!
Proofs of the statements about the operand unpacker (spec/41_operand_unpack.md): the layouts as numbers (R75 to R77), the
bits of the operand word that take part in them (R78), the register namer (R79), and that no index alters decoding (R81).
-/

namespace Sys2Proof

/-! ### The nibbles of the operand word -/

/-- The nibble of idx_j lies inside the k-nibble field, bits 4k+3..4, in either order (R73). -/
theorem nibbleLo_bounds (o : NibbleOrder) {k j : Nat} (hj : j < k) :
    4 ≤ nibbleLo o k j ∧ nibbleLo o k j + 4 ≤ 4 * k + 4 := by
  cases o with
  | msbFirst => change 4 ≤ 4 + 4 * (k - 1 - j) ∧ 4 + 4 * (k - 1 - j) + 4 ≤ 4 * k + 4; omega
  | lsbFirst => change 4 ≤ 4 + 4 * j ∧ 4 + 4 * j + 4 ≤ 4 * k + 4; omega

/-- The unpacked indices as numbers: the operand word divided down to each index's nibble and reduced to it. -/
theorem unpack_map_toNat (o : NibbleOrder) (ow : Word) (k : Nat) :
    (unpack o ow k).map (·.toNat) = (List.range k).map fun j => ow.toNat / 2 ^ nibbleLo o k j % 16 := by
  rw [unpack, List.map_map]
  exact List.map_congr_left fun j _ => extractLsb'_toNat_eq_div_mod ow (nibbleLo o k j) 4

/-- A field depends on the bits of the word at its own places alone. -/
theorem extractLsb'_congr {n lo width : Nat} {w w' : BitVec n}
    (h : ∀ b, lo ≤ b → b < lo + width → w.getLsbD b = w'.getLsbD b) :
    w.extractLsb' lo width = w'.extractLsb' lo width := by
  ext i hi
  rw [BitVec.getElem_extractLsb', BitVec.getElem_extractLsb']
  exact h (lo + i) (Nat.le_add_right lo i) (Nat.add_lt_add_left hi lo)

/-- The unpacked indices depend on the bits of the k-nibble field alone (R78). -/
theorem unpack_congr (o : NibbleOrder) {k : Nat} {ow ow' : Word}
    (h : ∀ b, 4 ≤ b → b < 4 * k + 4 → ow.getLsbD b = ow'.getLsbD b) : unpack o ow k = unpack o ow' k := by
  refine List.map_congr_left fun j hj => extractLsb'_congr fun b hlo hhi => ?_
  obtain ⟨hfieldLo, hfieldHi⟩ := nibbleLo_bounds o (List.mem_range.mp hj)
  exact h b (hfieldLo.trans hlo) (hhi.trans_le hfieldHi)

/-! ### The register names -/

/-- The rows of the register namer that name a register (R79). -/
theorem nameOf_eq_regName {c : Config} {r : RegIdx} (hmin : 1 ≤ r.toNat) (hmax : r.toNat ≤ 6) :
    c.nameOf r = c.regNames.toList[r.toNat - 1]'(by rw [Vector.length_toList]; change _ < 6; omega) := by
  rw [Vector.getElem_toList]
  exact dif_pos ⟨hmin, Nat.lt_succ_of_le hmax⟩

/-- The six register names of a well-formed configuration are distinct (R25, R92). -/
theorem nameOf_injective {c : Config} (hwf : c.wf = true) {r q : RegIdx} (hrmin : 1 ≤ r.toNat) (hrmax : r.toNat ≤ 6)
    (hqmin : 1 ≤ q.toNat) (hqmax : q.toNat ≤ 6) (hname : c.nameOf r = c.nameOf q) : r = q := by
  rw [nameOf_eq_regName hrmin hrmax, nameOf_eq_regName hqmin hqmax,
    (Config.wf_regNames hwf).getElem_inj_iff] at hname
  exact BitVec.eq_of_toNat_eq (by omega)

end Sys2Proof

namespace Sys2Proof.Machine

/-! ### Decoding with any operand word -/

/-- Whether a given trailing word is accepted, and which index is next, does not depend on its value (R63, R64). -/
theorem trailingWord_some_cases (needed : Bool) (p len : Nat) :
    (∀ w, trailingWord needed p len (some w) = none) ∨
      ∃ q, ∀ w, trailingWord needed p len (some w) = some (if needed then some w else none, q) := by
  cases needed with
  | false => exact Or.inr ⟨p, fun w => trailingWord_false p len (some w)⟩
  | true =>
    by_cases hp : p < len
    · exact Or.inr ⟨p + 1, fun w => trailingWord_some_of_lt w hp⟩
    · exact Or.inl fun w => trailingWord_of_le (some w) (Nat.le_of_not_lt hp)

/-- What decoding answers for all values of the operand word at once: one fault, or the record of R67 with one immediate and
the operand word where k ≥ 1 asks for it. -/
theorem decodeFields_some_cases (c : Config) (len pos : Nat) (op : OpId) (h : Head) (imm : Option Word) :
    (∃ f, ∀ w, decodeFields c len pos op h (some w) imm = .error f) ∨
      ∃ imm', ∀ w, decodeFields c len pos op h (some w) imm =
        .ok (recordOf c pos op h (if 1 ≤ regCount (c.arity op) h then some w else none) imm') := by
  unfold decodeFields
  by_cases hpos : len ≤ pos
  · exact Or.inl ⟨_, fun w => if_pos hpos⟩
  simp only [if_neg hpos]
  obtain hnone | ⟨q, hsome⟩ := trailingWord_some_cases (decide (1 ≤ regCount (c.arity op) h)) (pos + 1) len
  · simp only [hnone]
    exact Or.inl ⟨_, fun w => rfl⟩
  simp only [hsome, decide_eq_true_eq]
  cases trailingWord (c.isImmCopy op) q len imm with
  | none => exact Or.inl ⟨_, fun w => rfl⟩
  | some last => exact Or.inr ⟨last.1, fun w => rfl⟩

end Sys2Proof.Machine

namespace Sys2Proof
open Machine

/-! ### The statements -/

/-- Settles O11: decoding answers for every operand word alike, and the records it answers have `k` indices each. -/
theorem invalidRegisterChangesOnlyTheName : Obligations.InvalidRegisterChangesOnlyTheName := by
  intro c len pos op h w w' imm
  obtain ⟨f, hfault⟩ | ⟨imm', hrecord⟩ := decodeFields_some_cases c len pos op h imm
  · exact Or.inl ⟨f, hfault w, hfault w'⟩
  · refine Or.inr ⟨_, _, hrecord w, hrecord w', rfl, ?_⟩
    rw [recordOf_regs_length Option.isSome_ite, recordOf_regs_length Option.isSome_ite]

/-- Settles O8, from the layouts of the unpacker and its indices as numbers; a nibble at bit 12 is the word's last, so there
the reduction changes nothing. -/
theorem unpackLayouts : Obligations.UnpackLayouts := by
  intro o ow
  have hlast : ow.toNat / 2 ^ 12 % 16 = ow.toNat / 2 ^ 12 :=
    Nat.mod_eq_of_lt (Nat.div_lt_of_lt_mul ow.toNat_lt)
  refine ⟨fun k => unpack_eq_indices o ow, ?one, ?twoMsb, ?twoLsb, ?threeMsb, ?threeLsb⟩
  case one => cases o <;> exact unpack_map_toNat _ ow 1
  case twoMsb => exact unpack_map_toNat .msbFirst ow 2
  case twoLsb => exact unpack_map_toNat .lsbFirst ow 2
  case threeMsb =>
    rw [← hlast]
    exact unpack_map_toNat .msbFirst ow 3
  case threeLsb =>
    rw [← hlast]
    exact unpack_map_toNat .lsbFirst ow 3

/-- Settles O9: `unpack_congr`, each index's nibble lying inside the k-nibble field. -/
theorem ignoredOperandBits : Obligations.IgnoredOperandBits := by
  intro o k ow ow' _ _ hfield
  exact unpack_congr o hfield

/-- Settles O10, from the table of the sixteen rows and the distinctness of the six names. -/
theorem registerNamerRom : Obligations.RegisterNamerRom := by
  intro c r
  exact ⟨nameOf_eq_name c r, fun hwf _ hrmin hrmax hqmin hqmax => nameOf_injective hwf hrmin hrmax hqmin hqmax⟩

end Sys2Proof
end

section
/-!
Proofs of the statements about one step of the sequencer (spec/42_sequencer.md section 1): the step that fetches, decodes to
an instruction and runs its meaning is SEQ_STEP over DEC (R71, R82), when it has a next state, and what it can change.
-/

namespace Sys2Proof

/-! ### The instruction made of an id and its words -/

/-- An instruction carries an opcode, the raw fields and the trailing words, which are all that its meaning depends on. -/
def Instr.Carries (c : Config) (i : Instr) (op : OpId) (h : Head) (ow imm : Option Word) : Prop :=
  i.opcode c = op ∧ i.head = h ∧ i.opword = ow ∧ i.imm = imm

/-- A 9-bit id is the one made of its number. -/
theorem ofNat_eq_of_toNat_eq {op : OpId} {n : Nat} (h : op.toNat = n) : BitVec.ofNat 9 n = op := by
  rw [← h]
  exact (BitVec.ofNat_toNat 9 op).trans (BitVec.setWidth_eq op)

/-- Every id of the low block has its row, and the row carries the id and what the constructor is given (R94). -/
theorem lowInstr_of_lt {op : OpId} (hlow : op.toNat < 39) : ∃ f, lowInstr op.toNat = some f ∧
    ∀ (c : Config) (h : Head) (ow imm : Option Word), (f h ow imm).Carries c op h ow imm := by
  generalize hn : op.toNat = n at hlow ⊢
  rw [← ofNat_eq_of_toNat_eq hn]
  interval_cases n <;> exact ⟨_, rfl, fun _ _ _ _ => ⟨rfl, rfl, rfl, rfl⟩⟩

/-- An id outside the low block that is none of S1, S2 and the four high-block ids is not populated (R91, R137 to R141). -/
theorem populatedId_eq_false_of_ne {c : Config} (hwf : c.wf = true) {id : Nat} (hlow : 39 ≤ id) (hs1 : id ≠ c.s1)
    (hs2 : id ≠ c.s2) (h66 : id ≠ 66) (ha : id ≠ c.highA) (hb : id ≠ c.highB) (hc : id ≠ c.highC) :
    c.populatedId id = false := by
  have hbounds := Config.wf_bounds hwf
  have hhigh := highOther_bounds hwf
  rw [populatedId_eq_false_iff]
  omega

/-- With arity 0 no position is in register mode (R62). -/
theorem regCount_zero (h : Head) : regCount 0 h = 0 := by
  rw [regCount_eq_count]
  exact Nat.le_zero.mp (count_le_arity 0 h)

/-- An id of the ERROR class that is not IMM_COPY_ID has no trailing words (R144). -/
theorem trailing_eq_none_of_not_populated {c : Config} {op : OpId} {h : Head} {ow imm : Option Word}
    (hp : c.populatedId op.toNat = false) (hi : c.isImmCopy op = false)
    (how : ow.isSome = decide (1 ≤ regCount (c.arity op) h)) (himm : imm.isSome = c.isImmCopy op) :
    ow = none ∧ imm = none := by
  have harity : c.arity op = 0 := arityId_of_not_populated hp
  rw [harity, regCount_zero] at how
  rw [hi] at himm
  exact ⟨Option.isNone_iff_eq_none.mp (Option.isSome_eq_false_iff.mp how),
    Option.isNone_iff_eq_none.mp (Option.isSome_eq_false_iff.mp himm)⟩

/-- The instruction the decoder makes carries the id, the fields and the words it is made of, when these are the words that
the id's layout has (R44, log 12). -/
theorem instrOf_carries {c : Config} {op : OpId} {h : Head} {ow imm : Option Word} (hwf : c.wf = true)
    (how : ow.isSome = decide (1 ≤ regCount (c.arity op) h)) (himm : imm.isSome = c.isImmCopy op) :
    (instrOf c op h ow imm).Carries c op h ow imm := by
  unfold instrOf
  by_cases hi : c.isImmCopy op = true
  · rw [if_pos hi]
    exact ⟨ofNat_eq_of_toNat_eq (isImmCopy_eq_true_iff.mp hi), rfl, rfl, rfl⟩
  rw [if_neg hi]
  by_cases hlow : op.toNat < 39
  · obtain ⟨f, hf, hcarries⟩ := lowInstr_of_lt hlow
    rw [hf]
    exact hcarries c h ow imm
  rw [lowInstr_none (Nat.le_of_not_lt hlow)]
  dsimp only
  split_ifs with hs1 hs2 h66 ha hb hc hsentinel
  · exact ⟨ofNat_eq_of_toNat_eq hs1, rfl, rfl, rfl⟩
  · exact ⟨ofNat_eq_of_toNat_eq hs2, rfl, rfl, rfl⟩
  · exact ⟨ofNat_eq_of_toNat_eq h66, rfl, rfl, rfl⟩
  · exact ⟨ofNat_eq_of_toNat_eq ha, rfl, rfl, rfl⟩
  · exact ⟨ofNat_eq_of_toNat_eq hb, rfl, rfl, rfl⟩
  · exact ⟨ofNat_eq_of_toNat_eq hc, rfl, rfl, rfl⟩
  all_goals
    have hp := populatedId_eq_false_of_ne hwf (Nat.le_of_not_lt hlow) hs1 hs2 h66 ha hb hc
    obtain ⟨rfl, rfl⟩ := trailing_eq_none_of_not_populated hp (Bool.eq_false_iff.mpr hi) how himm
  · exact ⟨ofNat_eq_of_toNat_eq hsentinel, rfl, rfl, rfl⟩
  · exact ⟨rfl, rfl, rfl, rfl⟩

end Sys2Proof

namespace Sys2Proof.Machine

/-- An instruction's meaning is the shared operation on what it carries. -/
theorem exec_of_carries {i : Instr} {s : State} {op : OpId} {h : Head} {ow imm : Option Word}
    (hi : i.Carries s.cfg op h ow imm) : exec i s = emitAs op h ow imm s := by
  obtain ⟨rfl, rfl, rfl, rfl⟩ := hi
  exact exec_eq_emitAs i s

/-! ### Words of a region -/

/-- A region holds consecutive words from word index `pos` on. -/
def WordsAt (c : Config) (m : Memory) (v : CodeView) (pos : Nat) (ws : List Word) : Prop :=
  ∀ (j : Nat) (w : Word), ws[j]? = some w → codeAt c m v (pos + j) = w

section
variable {c : Config} {m : Memory} {v : CodeView} {pos : Nat}

theorem wordsAt_cons {w : Word} {ws : List Word} :
    WordsAt c m v pos (w :: ws) ↔ codeAt c m v pos = w ∧ WordsAt c m v (pos + 1) ws := by
  constructor
  · intro h
    refine ⟨h 0 w rfl, fun j x hx => ?_⟩
    rw [Nat.add_right_comm, Nat.add_assoc]
    exact h (j + 1) x hx
  · rintro ⟨hw, hws⟩ j x hx
    cases j with
    | zero => exact hw.trans (Option.some.inj hx)
    | succ j =>
      have := hws j x hx
      rwa [Nat.add_right_comm, Nat.add_assoc] at this

theorem wordsAt_append {xs ys : List Word} :
    WordsAt c m v pos (xs ++ ys) ↔ WordsAt c m v pos xs ∧ WordsAt c m v (pos + xs.length) ys := by
  induction xs generalizing pos with
  | nil => simp [WordsAt]
  | cons x xs ih =>
    rw [List.cons_append, wordsAt_cons, wordsAt_cons, ih, List.length_cons, and_assoc, Nat.add_right_comm, Nat.add_assoc]

/-- DEC on an instruction whose words the region holds, all below LEN: the record of exactly these words (R65, R67). -/
theorem dec_of_wordsAt {op : OpId} {h : Head} {ow imm : Option Word}
    (how : ow.isSome = decide (1 ≤ regCount (c.arity op) h)) (himm : imm.isSome = c.isImmCopy op)
    (hwords : WordsAt c m v pos (headWord op h :: (ow.toList ++ imm.toList)))
    (hfit : pos + sizeOfShape (regCount (c.arity op) h) (c.isImmCopy op) ≤ v.len.toNat) :
    dec c m v pos = .ok (recordOf c pos op h ow imm, sizeOfShape (regCount (c.arity op) h) (c.isImmCopy op)) := by
  obtain ⟨hhead, htrailing⟩ := wordsAt_cons.mp hwords
  obtain ⟨howAt, himmAt⟩ := wordsAt_append.mp htrailing
  have hdec := dec_of_fit hhead rfl (by rwa [opcodeField_headWord, headField_headWord])
  rw [opcodeField_headWord, headField_headWord] at hdec
  have howEq : (if 1 ≤ regCount (c.arity op) h then some (codeAt c m v (pos + 1)) else none) = ow := by
    cases ow with
    | none => exact if_neg (of_decide_eq_false how.symm)
    | some w => exact (if_pos (of_decide_eq_true how.symm)).trans (congrArg some (howAt 0 w rfl))
  have himmEq : (if c.isImmCopy op then
      some (codeAt c m v (pos + sizeOfShape (regCount (c.arity op) h) false)) else none) = imm := by
    cases imm with
    | none => exact if_neg (Bool.eq_false_iff.mp himm.symm)
    | some x =>
      have hplace : sizeOfShape (regCount (c.arity op) h) false = 1 + ow.toList.length := by
        rw [sizeOfShape_false, option_toList_length, how]
        simp only [decide_eq_true_eq]
      rw [if_pos (show c.isImmCopy op = true from himm.symm), hplace, ← Nat.add_assoc]
      exact congrArg some (himmAt 0 x rfl)
  rw [hdec, howEq, himmEq]

end

/-! ### The fetch -/

/-- The region holds the words fetched from it. -/
theorem wordsAt_fetchWindow {s : State} {v : CodeView} (hv : s.code = some v) :
    WordsAt s.cfg s.mem v s.cur s.fetchWindow := by
  intro j w hw
  rw [fetchWindow_of_code hv, List.getElem?_map, Option.map_eq_some_iff] at hw
  obtain ⟨i, hi, rfl⟩ := hw
  obtain ⟨hj, rfl⟩ := List.getElem?_eq_some_iff.mp hi
  rw [List.getElem_range]

theorem fetchWindow_length {s : State} {v : CodeView} (hv : s.code = some v) :
    s.fetchWindow.length = min 3 (v.len.toNat - s.cur) := by
  rw [fetchWindow_of_code hv, List.length_map, List.length_range]

/-- Below LEN the fetch finds at least the instruction word. -/
theorem fetchWindow_eq_cons {s : State} {v : CodeView} (hv : s.code = some v) (hcur : s.cur < v.len.toNat) :
    ∃ ws, s.fetchWindow = codeAt s.cfg s.mem v s.cur :: ws := by
  have hlength := fetchWindow_length hv
  have hwords := wordsAt_fetchWindow hv
  cases hwindow : s.fetchWindow with
  | nil =>
    rw [hwindow, List.length_nil] at hlength
    omega
  | cons w ws =>
    rw [hwindow] at hwords
    exact ⟨ws, congrArg (· :: ws) (wordsAt_cons.mp hwords).1.symm⟩

/-- From LEN on the fetch finds no word (R31). -/
theorem fetchWindow_eq_nil {s : State} {v : CodeView} (hv : s.code = some v) (hcur : v.len.toNat ≤ s.cur) :
    s.fetchWindow = [] := by
  rw [← List.length_eq_zero_iff, fetchWindow_length hv]
  omega

/-- The fetch answers the instruction that the words at the cursor decode to. -/
theorem fetch_of_decode {s : State} {i : Instr} {rest : List Word} (h : decode s.cfg s.fetchWindow = .ok (i, rest)) :
    s.fetch = .ok i := by
  rw [State.fetch, h]

theorem fetch_of_decode_error {s : State} {e : DecodeError} (h : decode s.cfg s.fetchWindow = .error e) :
    s.fetch = .error e := by
  rw [State.fetch, h]

/-! ### The running step, case by case -/

theorem runStep_absent {s : State} (hv : s.code = none) : runStep s = .next (s.takeFault noRegionFault) := by
  simp only [runStep, hv]

theorem runStep_atEnd {s : State} {v : CodeView} (hv : s.code = some v) (hcur : s.cur = v.len.toNat) :
    runStep s = .next { s with st := .done } := by
  simp only [runStep, hv, if_pos hcur]

theorem runStep_of_fetch {s : State} {v : CodeView} (hv : s.code = some v) (hcur : s.cur ≠ v.len.toNat) {i : Instr}
    (hfetch : s.fetch = .ok i) : runStep s = exec i s := by
  simp only [runStep, hv, if_neg hcur, hfetch]

theorem runStep_of_reject {s : State} {v : CodeView} (hv : s.code = some v) (hcur : s.cur ≠ v.len.toNat)
    {e : DecodeError} (hfetch : s.fetch = .error e) :
    runStep s = .next (s.takeFault (rejectFault e s.cur v.len.toNat)) := by
  simp only [runStep, hv, if_neg hcur, hfetch]

/-- DEC at a cursor at or beyond LEN (R148). -/
theorem dec_of_le {c : Config} {m : Memory} {v : CodeView} {pos : Nat} (hpos : v.len.toNat ≤ pos) :
    dec c m v pos = .error (cursorFault pos v.len.toNat) := by
  unfold dec
  exact if_pos hpos

/-- Beyond LEN the fetch finds no word, and DEC no instruction. -/
theorem runStep_beyond {s : State} {v : CodeView} (hv : s.code = some v) (hcur : v.len.toNat < s.cur) :
    runStep s = .next (s.takeFault (cursorFault s.cur v.len.toNat)) := by
  have hreject : s.fetch = .error .noWord :=
    fetch_of_decode_error (by rw [fetchWindow_eq_nil hv (Nat.le_of_lt hcur)]; rfl)
  exact runStep_of_reject hv (Nat.ne_of_gt hcur) hreject

section
variable {s : State} {v : CodeView} {w : Word} {k : Nat}

/-- The step on an instruction that reaches past LEN takes DEC's fault (R65). -/
theorem runStep_of_truncated (hv : s.code = some v) (hw : codeAt s.cfg s.mem v s.cur = w)
    (hk : regCount (s.cfg.arity (opcodeField w)) (headField w) = k) (hcur : s.cur < v.len.toNat)
    (hlen : v.len.toNat < s.cur + sizeOfShape k (s.cfg.isImmCopy (opcodeField w))) :
    runStep s = .next (s.takeFault (truncatedFault s.cur v.len.toNat v.len.toNat)) := by
  obtain ⟨ws, hwindow⟩ := fetchWindow_eq_cons hv hcur
  have hlength := fetchWindow_length hv
  have hmax : sizeOfShape k (s.cfg.isImmCopy (opcodeField w)) ≤ 3 := (sizeOfShape_bounds _ _).2
  rw [hwindow, List.length_cons] at hlength
  have hreject := decode_cons_of_lt_size (rest := ws) hk (by omega)
  rw [← hw, ← hwindow] at hreject
  rw [runStep_of_reject hv (Nat.ne_of_lt hcur) (fetch_of_decode_error hreject), rejectFault]
  have hmissing : s.cur + (ws.length + 1) = v.len.toNat := by omega
  rw [hmissing]

/-- The step on an instruction that fits commits DEC's record (R65, R67). -/
theorem runStep_of_fit (hwf : s.cfg.wf = true) (hv : s.code = some v) (hw : codeAt s.cfg s.mem v s.cur = w)
    (hk : regCount (s.cfg.arity (opcodeField w)) (headField w) = k) (hcur : s.cur < v.len.toNat)
    (hfit : s.cur + sizeOfShape k (s.cfg.isImmCopy (opcodeField w)) ≤ v.len.toNat) :
    ∃ d, dec s.cfg s.mem v s.cur = .ok (d, d.size) ∧ runStep s = .next (s.commit (.ok d)) := by
  obtain ⟨ws, hwindow⟩ := fetchWindow_eq_cons hv hcur
  have hwords := wordsAt_fetchWindow hv
  have hlength := fetchWindow_length hv
  have hmax : sizeOfShape k (s.cfg.isImmCopy (opcodeField w)) ≤ 3 := (sizeOfShape_bounds _ _).2
  rw [hwindow, List.length_cons] at hlength
  obtain ⟨i, hdecode⟩ := decode_cons_of_size_le (rest := ws) hk (by omega)
  obtain ⟨ow, imm, rfl, hws, how, himm⟩ := decode_cons_eq_ok hdecode
  rw [hwindow, hw, hws, ← List.append_assoc, ← List.cons_append, wordsAt_append, ← headWord_fields w] at hwords
  rw [← hw, ← hwindow] at hdecode
  subst hk
  refine ⟨_, dec_of_wordsAt how himm hwords.1 hfit, ?_⟩
  rw [runStep_of_fetch hv (Nat.ne_of_lt hcur) (fetch_of_decode hdecode), hw, exec_of_carries (instrOf_carries hwf how himm),
    emitAs_present hv, decodeFields_ok how himm hfit]

end

/-! ### The step is SEQ over DEC -/

section
variable {s : State} {v : CodeView}

theorem seqStep_absent (hv : s.code = none) : Reference.seqStep s = s.takeFault noRegionFault := by
  simp only [Reference.seqStep, State.takeFault, noRegionFault, hv]

theorem seqStep_atEnd (hv : s.code = some v) (hcur : s.cur = v.len.toNat) :
    Reference.seqStep s = { s with st := .done } := by
  simp only [Reference.seqStep, hv, if_pos hcur]

theorem seqStep_of_ok (hv : s.code = some v) (hcur : s.cur ≠ v.len.toNat) {d : Decoded}
    (hdec : dec s.cfg s.mem v s.cur = .ok (d, d.size)) : Reference.seqStep s = s.commit (.ok d) := by
  simp only [Reference.seqStep, State.commit, hv, if_neg hcur, hdec]

theorem seqStep_of_error (hv : s.code = some v) (hcur : s.cur ≠ v.len.toNat) {f : FaultRecord}
    (hdec : dec s.cfg s.mem v s.cur = .error f) : Reference.seqStep s = s.takeFault f := by
  simp only [Reference.seqStep, State.takeFault, hv, if_neg hcur, hdec]

end

/-- The running step is SEQ_STEP of R82 over DEC, in each of its cases. -/
theorem runStep_eq_seqStep {s : State} (hwf : s.cfg.wf = true) : runStep s = .next (Reference.seqStep s) := by
  cases hv : s.code with
  | none => rw [runStep_absent hv, seqStep_absent hv]
  | some v =>
    obtain hlt | hend | hgt := Nat.lt_trichotomy s.cur v.len.toNat
    · generalize hw : codeAt s.cfg s.mem v s.cur = w
      generalize hk : regCount (s.cfg.arity (opcodeField w)) (headField w) = k
      by_cases hfit : s.cur + sizeOfShape k (s.cfg.isImmCopy (opcodeField w)) ≤ v.len.toNat
      · obtain ⟨d, hdec, hrun⟩ := runStep_of_fit hwf hv hw hk hlt hfit
        rw [hrun, seqStep_of_ok hv (Nat.ne_of_lt hlt) hdec]
      · rw [runStep_of_truncated hv hw hk hlt (Nat.lt_of_not_le hfit),
          seqStep_of_error hv (Nat.ne_of_lt hlt) (dec_of_truncated hw hk hlt (Nat.lt_of_not_le hfit))]
    · rw [runStep_atEnd hv hend, seqStep_atEnd hv hend]
    · rw [runStep_beyond hv hgt, seqStep_of_error hv (Nat.ne_of_gt hgt) (dec_of_le (Nat.le_of_lt hgt))]

/-- A step at a running state under a well-formed configuration is SEQ_STEP over DEC. -/
theorem step_eq_seqStep {s : State} (hwf : s.cfg.wf = true) (hst : s.st = .run) :
    step s = .next (Reference.seqStep s) := by
  rw [step_run hwf hst, runStep_eq_seqStep hwf]

/-- DONE and FAULT are terminal (R82). -/
theorem step_done {s : State} (hwf : s.cfg.wf = true) (hst : s.st = .done) : step s = .fault .sweepDone := by
  simp only [step, sweepStep, Config.failedCheck_eq_none.mpr hwf, hst]

theorem step_fault {s : State} (hwf : s.cfg.wf = true) (hst : s.st = .fault) : step s = .fault .sweepFaulted := by
  simp only [step, sweepStep, Config.failedCheck_eq_none.mpr hwf, hst]

/-- An ill-formed configuration is refused by a check it fails (R92, D20). -/
theorem step_of_not_wf {s : State} (hwf : s.cfg.wf ≠ true) :
    ∃ k : ConfigCheck, k.holds s.cfg = false ∧ step s = .refused (.illFormedConfig k) := by
  cases hcheck : s.cfg.failedCheck with
  | none => exact absurd (Config.failedCheck_eq_none.mp hcheck) hwf
  | some k =>
    have hfails := List.find?_some hcheck
    exact ⟨k, by simpa using hfails, by simp only [step, sweepStep, hcheck]⟩

/-- The six checks are all the checks of R92. -/
theorem wf_iff_checks {c : Config} : c.wf = true ↔ ∀ k : ConfigCheck, k.holds c = true := by
  have hall : ∀ k : ConfigCheck, k ∈ ConfigCheck.all := by
    intro k
    cases k <;> decide
  unfold Config.wf
  rw [List.all_eq_true]
  exact forall_congr' fun k => ⟨fun h => h (hall k), fun h _ => h⟩

/-- A step has a next state exactly when the configuration is well formed and ST = RUN. -/
theorem step_next_iff {s : State} : (∃ t, step s = .next t) ↔ s.cfg.wf = true ∧ s.st = .run := by
  constructor
  · rintro ⟨t, ht⟩
    obtain ⟨hwf, hst, -⟩ := step_cases ht
    exact ⟨hwf, hst⟩
  · rintro ⟨hwf, hst⟩
    exact ⟨_, step_eq_seqStep hwf hst⟩

/-! ### What DEC's answer says -/

section
variable {c : Config} {m : Memory} {v : CodeView} {pos : Nat}

/-- A record of DEC starts at the cursor, has 1 to 3 words, and ends inside the region (R65, R66). -/
theorem dec_ok_bounds {d : Decoded} {size : Nat} (h : dec c m v pos = .ok (d, size)) :
    d.size = size ∧ d.pos = pos ∧ 1 ≤ d.size ∧ d.size ≤ 3 ∧ pos + d.size ≤ v.len.toNat := by
  obtain ⟨hfit, rfl, rfl⟩ := dec_eq_ok rfl rfl h
  obtain ⟨hmin, hmax⟩ := sizeOfShape_bounds _ _
  exact ⟨rfl, rfl, hmin, hmax, hfit⟩

/-- Below LEN the one fault of DEC is TruncatedInstruction, with LEN as the missing index (R65, R149). -/
theorem dec_error_of_lt {f : FaultRecord} (hpos : pos < v.len.toNat) (h : dec c m v pos = .error f) :
    f = truncatedFault pos v.len.toNat v.len.toNat := by
  generalize hw : codeAt c m v pos = w
  generalize hk : regCount (c.arity (opcodeField w)) (headField w) = k
  by_cases hfit : pos + sizeOfShape k (c.isImmCopy (opcodeField w)) ≤ v.len.toNat
  · rw [dec_of_fit hw hk hfit] at h
    contradiction
  · rw [dec_of_truncated hw hk hpos (Nat.lt_of_not_le hfit)] at h
    exact (Except.error.inj h).symm

/-- TruncatedInstruction is a fault of cursors below LEN only (R148, R149). -/
theorem lt_of_dec_truncated {p missing len : Nat} (h : dec c m v pos = .error (truncatedFault p missing len)) :
    pos < v.len.toNat := by
  by_contra hpos
  rw [dec_of_le (Nat.le_of_not_lt hpos)] at h
  exact absurd (congrArg FaultRecord.kind (Except.error.inj h)) FaultKind.noConfusion

end

/-- All that a step with a next state can be, in terms of DEC: the absent region's fault, the end of the sweep, the record
that DEC answers at the cursor, or the fault that DEC raises there (R82). -/
theorem step_dec_cases {s t : State} (h : step s = .next t) : s.cfg.wf = true ∧ s.st = .run ∧
    ((s.code = none ∧ t = s.takeFault noRegionFault) ∨
     ∃ v, s.code = some v ∧
      ((s.cur = v.len.toNat ∧ t = { s with st := .done }) ∨
       (∃ d, dec s.cfg s.mem v s.cur = .ok (d, d.size) ∧ t = s.commit (.ok d)) ∨
       (s.cur ≠ v.len.toNat ∧ ∃ f, dec s.cfg s.mem v s.cur = .error f ∧ t = s.takeFault f))) := by
  obtain ⟨hwf, hst⟩ := step_next_iff.mp ⟨t, h⟩
  refine ⟨hwf, hst, ?_⟩
  obtain rfl : Reference.seqStep s = t := Host.Outcome.next.inj ((step_eq_seqStep hwf hst).symm.trans h)
  obtain hv | ⟨v, hv⟩ := Option.eq_none_or_eq_some s.code
  · exact Or.inl ⟨hv, seqStep_absent hv⟩
  refine Or.inr ⟨v, hv, ?_⟩
  by_cases hcur : s.cur = v.len.toNat
  · exact Or.inl ⟨hcur, seqStep_atEnd hv hcur⟩
  cases hdec : dec s.cfg s.mem v s.cur with
  | error f => exact Or.inr (Or.inr ⟨hcur, f, rfl, seqStep_of_error hv hcur hdec⟩)
  | ok answer =>
    obtain ⟨d, size⟩ := answer
    obtain ⟨rfl, -⟩ := dec_ok_bounds hdec
    exact Or.inr (Or.inl ⟨d, rfl, seqStep_of_ok hv hcur hdec⟩)

end Sys2Proof.Machine

namespace Sys2Proof
open Machine

/-! ### The statements about one step -/

/-- Settles O37: at RUN by the cases of the running step, and DONE and FAULT have no step. -/
theorem stepIsSeqStepOverDec : Obligations.StepIsSeqStepOverDec := by
  intro s hwf
  cases hst : s.st with
  | run => exact step_eq_seqStep hwf hst
  | done => exact step_done hwf hst
  | fault => exact step_fault hwf hst

/-- Settles O38, from the condition for a next state and the refusal of an ill-formed configuration. -/
theorem stepIsPossibleExactlyWhileRunning : Obligations.StepIsPossibleExactlyWhileRunning := by
  intro s
  rw [← wf_iff_checks]
  refine ⟨step_next_iff, fun k hk => step_of_not_wf fun hwf => ?_⟩
  exact Bool.eq_false_iff.mp hk (wf_iff_checks.mp hwf k)

/-- Settles O40: each case of a step, read field by field. -/
theorem stepFrame : Obligations.StepFrame := by
  intro s t h
  obtain ⟨hcfg, hmem, hcode⟩ := step_keeps_inputs h
  refine ⟨hcfg, hmem, hcode, ?_⟩
  obtain ⟨-, hst, ⟨-, rfl⟩ | ⟨v, -, ⟨-, rfl⟩ | ⟨d, hdec, rfl⟩ | ⟨-, f, -, rfl⟩⟩⟩ := step_dec_cases h
  · exact Or.inr ⟨rfl, rfl, Or.inr ⟨rfl, rfl⟩⟩
  · exact Or.inr ⟨rfl, rfl, Or.inl ⟨rfl, rfl⟩⟩
  · obtain ⟨-, hpos, hmin, hmax, -⟩ := dec_ok_bounds hdec
    exact Or.inl ⟨d, rfl, hpos, rfl, hmin, hmax, hst, rfl⟩
  · exact Or.inr ⟨rfl, rfl, Or.inr ⟨rfl, rfl⟩⟩

/-- Settles O41: every meaning is the shared operation, which takes a fault or commits a record of the instruction's size. -/
theorem sweepNeverFollowsControlFlow : Obligations.SweepNeverFollowsControlFlow := by
  intro i s t h
  rw [exec_eq_emitAs] at h
  rw [← regCount_eq_count, size_eq_sizeOfShape]
  obtain ⟨f, hemit⟩ | ⟨d, hemit, -, -, hsize, -⟩ := emitAs_cases (i.opcode s.cfg) i.head i.opword i.imm s
  · obtain rfl := Host.Outcome.next.inj (hemit.symm.trans h)
    exact Or.inl ⟨rfl, rfl, rfl⟩
  · obtain rfl := Host.Outcome.next.inj (hemit.symm.trans h)
    exact Or.inr ⟨congrArg (s.cur + ·) hsize, by simp, rfl⟩

/-- Settles O35: below LEN the running step runs what the fetch answers. -/
theorem stepRunsTheDecodedInstruction : Obligations.StepRunsTheDecodedInstruction := by
  intro s v i rest hwf hst hv hcur hdecode
  rw [step_run hwf hst]
  exact runStep_of_fetch hv (Nat.ne_of_lt hcur) (fetch_of_decode hdecode)

end Sys2Proof
end

section
/-!
Proofs of the statements about whole sweeps (spec/42_sequencer.md section 2): the invariant (R83), the tiling of the region
(R85, R86), the bounded end (R87), the round trip over synthesised instructions (R88), and that the code words alone decide
a sweep (R89).
-/

namespace Sys2Proof.Machine

/-! ### Tilings -/

/-- A tiling goes on with a record that starts where it ends. -/
theorem tiles_snoc {a b : Nat} {records : List Decoded} {d : Decoded} (h : Tiles a records b) (hd : d.pos = b) :
    Tiles a (records ++ [d]) (b + d.size) := by
  induction records generalizing a with
  | nil =>
    obtain rfl : a = b := h
    exact ⟨hd, rfl⟩
  | cons e rest ih =>
    obtain ⟨hpos, hrest⟩ := h
    exact ⟨hpos, ih hrest⟩

/-- No record of a tiling starts below the tiling's start. -/
theorem le_pos_of_tiles {a b : Nat} {records : List Decoded} (h : Tiles a records b) : ∀ d ∈ records, a ≤ d.pos := by
  induction records generalizing a with
  | nil => simp
  | cons e rest ih =>
    obtain ⟨rfl, hrest⟩ := h
    refine List.forall_mem_cons.mpr ⟨Nat.le_refl _, fun d hd => ?_⟩
    exact (Nat.le_add_right _ _).trans (ih hrest d hd)

/-- Each index of a tiled range belongs to exactly one of the records (R85). -/
theorem exists_unique_covers {a b x : Nat} {records : List Decoded} (h : Tiles a records b) (hax : a ≤ x) (hxb : x < b) :
    ∃ j : Fin records.length, records[j].covers x ∧ ∀ j' : Fin records.length, records[j'].covers x → j' = j := by
  induction records generalizing a with
  | nil =>
    obtain rfl : a = b := h
    omega
  | cons d rest ih =>
    obtain ⟨rfl, hrest⟩ := h
    by_cases hx : x < d.pos + d.size
    · refine ⟨⟨0, Nat.succ_pos _⟩, ⟨hax, hx⟩, Fin.cases (fun _ => rfl) fun j hj => ?_⟩
      have hstart := le_pos_of_tiles hrest _ (List.getElem_mem j.isLt)
      have hcover : rest[j.val].pos ≤ x := hj.1
      omega
    · obtain ⟨j, hj, hunique⟩ := ih hrest (Nat.le_of_not_lt hx)
      refine ⟨j.succ, hj, Fin.cases (fun h0 => absurd h0.2 hx) fun j' hj' => ?_⟩
      exact congrArg Fin.succ (hunique j' hj')

/-! ### The invariant of the sweep -/

theorem faultJustified_of_absent {s : State} {f : FaultRecord} (hv : s.code = none) :
    FaultJustified s f ↔ f = noRegionFault := by
  simp only [FaultJustified, hv]

theorem faultJustified_of_code {s : State} {v : CodeView} {f : FaultRecord} (hv : s.code = some v) :
    FaultJustified s f ↔
      dec s.cfg s.mem v s.cur = .error f ∧ f = truncatedFault s.cur v.len.toNat v.len.toNat := by
  simp only [FaultJustified, hv]

/-- The state after reset has the invariant, whatever the state before. -/
theorem resetFrom_inv (s : State) : s.resetFrom.Inv where
  curInRange := Nat.zero_le _
  tiled := rfl
  decoded := by simp
  absent := fun _ => rfl
  doneAtEnd := by simp
  faultRecorded := by simp
  faultJustified := by simp

section
variable {s : State}

/-- A running sweep has recorded no fault (R19). -/
theorem finfo_eq_none_of_inv (h : s.Inv) (hst : s.st ≠ .fault) : s.finfo = none :=
  Option.not_isSome_iff_eq_none.mp (mt h.faultRecorded.mp hst)

/-- Taking a fault that is justified keeps the invariant. -/
theorem takeFault_inv (h : s.Inv) {f : FaultRecord} (hf : FaultJustified s f) : (s.takeFault f).Inv where
  curInRange := h.curInRange
  tiled := h.tiled
  decoded := h.decoded
  absent := h.absent
  doneAtEnd := by simp
  faultRecorded := by simp
  faultJustified := fun g hg => by
    obtain rfl : f = g := Option.some.inj hg
    exact hf

/-- Ending a running sweep at the end of its region keeps the invariant. -/
theorem done_inv (h : s.Inv) (hst : s.st = .run) {v : CodeView} (hv : s.code = some v) (hcur : s.cur = v.len.toNat) :
    ({ s with st := .done } : State).Inv where
  curInRange := h.curInRange
  tiled := h.tiled
  decoded := h.decoded
  absent := h.absent
  doneAtEnd := fun _ => ⟨by simp only [hv, Option.isSome_some], hcur.trans (len_of_code hv).symm⟩
  faultRecorded := by simp [finfo_eq_none_of_inv h (by simp [hst])]
  faultJustified := h.faultJustified

/-- Recording what DEC answers at the cursor keeps the invariant of a running sweep. -/
theorem commit_inv (h : s.Inv) (hst : s.st = .run) {v : CodeView} (hv : s.code = some v) {d : Decoded}
    (hdec : dec s.cfg s.mem v s.cur = .ok (d, d.size)) : (s.commit (.ok d)).Inv := by
  obtain ⟨-, hpos, -, -, hfit⟩ := dec_ok_bounds hdec
  have hfinfo : s.finfo = none := finfo_eq_none_of_inv h (by simp [hst])
  refine ⟨?range, tiles_snoc h.tiled hpos, ?decoded, ?absent, ?done, ?recorded, ?justified⟩
  case range => exact hfit.trans (len_of_code hv).ge
  case decoded =>
    intro u hu e he
    obtain hold | hnew := List.mem_append.mp he
    · exact h.decoded u hu e hold
    · obtain rfl := List.mem_singleton.mp hnew
      obtain rfl : v = u := Option.some.inj (hv.symm.trans hu)
      rw [hpos]
      exact hdec
  case absent =>
    intro hnone
    exact absurd (hv.symm.trans hnone) (by simp)
  case done => simp [hst]
  case recorded => simp [hst, hfinfo]
  case justified => simp [hfinfo]

/-- Every step keeps the invariant of the sweep. -/
theorem step_inv {t : State} (h : s.Inv) (hstep : step s = .next t) : t.Inv := by
  obtain ⟨-, hst, ⟨hv, rfl⟩ | ⟨v, hv, ⟨hcur, rfl⟩ | ⟨d, hdec, rfl⟩ | ⟨hcur, f, hdec, rfl⟩⟩⟩ := step_dec_cases hstep
  · exact takeFault_inv h ((faultJustified_of_absent hv).mpr rfl)
  · exact done_inv h hst hv hcur
  · exact commit_inv h hst hv hdec
  · have hrange : s.cur ≤ v.len.toNat := h.curInRange.trans (len_of_code hv).le
    have hf := dec_error_of_lt (Nat.lt_of_le_of_ne hrange hcur) hdec
    exact takeFault_inv h ((faultJustified_of_code hv).mpr ⟨hdec, hf⟩)

end

/-! ### Runs -/

/-- What every step keeps, every run keeps. -/
theorem run_keeps {P : State → Prop} (hstep : ∀ s t, P s → step s = .next t → P t) {n : Nat} {s t : State} (h : P s)
    (hrun : core.run n s = .next t) : P t := by
  induction n generalizing s with
  | zero =>
    obtain rfl : s = t := Host.Outcome.next.inj hrun
    exact h
  | succ n ih =>
    obtain ⟨u, hu, hrest⟩ := run_succ_eq_next hrun
    exact ih (hstep s u h hu) hrest

theorem run_keeps_inputs {n : Nat} {s t : State} (hrun : core.run n s = .next t) :
    t.cfg = s.cfg ∧ t.mem = s.mem ∧ t.code = s.code := by
  refine run_keeps (P := fun u => u.cfg = s.cfg ∧ u.mem = s.mem ∧ u.code = s.code) ?_ ⟨rfl, rfl, rfl⟩ hrun
  intro u w ⟨hcfg, hmem, hcode⟩ hu
  obtain ⟨hcfg', hmem', hcode'⟩ := step_keeps_inputs hu
  exact ⟨hcfg'.trans hcfg, hmem'.trans hmem, hcode'.trans hcode⟩

/-- Every state that a sweep from reset reaches has the invariant. -/
theorem run_resetFrom_inv {n : Nat} {s t : State} (hrun : core.run n s.resetFrom = .next t) : t.Inv :=
  run_keeps (fun _ _ => step_inv) (resetFrom_inv s) hrun

/-- A step that leaves the sweep running has moved the cursor on, within the region (R87). -/
theorem cur_lt_of_step_run {s t : State} (hstep : step s = .next t) (hst : t.st = .run) :
    s.cur < t.cur ∧ t.cur ≤ t.len ∧ t.len = s.len := by
  obtain ⟨-, -, ⟨-, rfl⟩ | ⟨v, hv, ⟨-, rfl⟩ | ⟨d, hdec, rfl⟩ | ⟨-, f, -, rfl⟩⟩⟩ := step_dec_cases hstep
  · exact absurd hst Status.noConfusion
  · exact absurd hst Status.noConfusion
  · obtain ⟨-, -, hmin, -, hfit⟩ := dec_ok_bounds hdec
    rw [len_of_code (s := s.commit (.ok d)) hv, len_of_code hv]
    exact ⟨Nat.lt_add_of_pos_right hmin, hfit, rfl⟩
  · exact absurd hst Status.noConfusion

/-- A running sweep ends after at most one step for each word left and one more (R87). -/
theorem run_ends {s : State} (hwf : s.cfg.wf = true) (hst : s.st = .run) :
    ∃ k t, 1 ≤ k ∧ k ≤ s.len - s.cur + 1 ∧ core.run k s = .next t ∧ t.st ≠ .run := by
  induction hleft : s.len - s.cur using Nat.strong_induction_on generalizing s with
  | h left ih =>
    obtain ⟨t, hstep⟩ := step_next_iff.mpr ⟨hwf, hst⟩
    by_cases hrun : t.st = .run
    · obtain ⟨hmove, hrange, hlen⟩ := cur_lt_of_step_run hstep hrun
      obtain ⟨hcfg, -, -⟩ := step_keeps_inputs hstep
      obtain ⟨k, u, -, hk, hu, hend⟩ := ih (t.len - t.cur) (by omega) (hcfg ▸ hwf) hrun rfl
      exact ⟨k + 1, u, by omega, by omega, (run_succ_of_next hstep).trans hu, hend⟩
    · exact ⟨1, t, by omega, by omega, run_succ_of_next hstep, hrun⟩

/-! ### A region of synthesised instructions -/

/-- The records of consecutive instructions, the first at word index `pos` and each later one where the one before it ends. -/
def recordsFrom (c : Config) (pos : Nat) (is : List Instr) : List Decoded :=
  match is with
  | [] => []
  | i :: rest => recordOf c pos (i.opcode c) i.head i.opword i.imm :: recordsFrom c (pos + i.size c) rest

theorem recordsFrom_length (c : Config) (pos : Nat) (is : List Instr) : (recordsFrom c pos is).length = is.length := by
  induction is generalizing pos with
  | nil => rfl
  | cons i rest ih => exact congrArg (· + 1) (ih _)

/-- The record of each instruction stands at the instruction's place in the list. -/
theorem recordsFrom_getElem? {c : Config} {pos j : Nat} {is : List Instr} {i : Instr} (h : is[j]? = some i) :
    ∃ p, (recordsFrom c pos is)[j]? = some (recordOf c p (i.opcode c) i.head i.opword i.imm) := by
  induction is generalizing pos j with
  | nil => simp at h
  | cons i' rest ih =>
    cases j with
    | zero =>
      obtain rfl : i' = i := Option.some.inj h
      exact ⟨pos, rfl⟩
    | succ j => exact ih h

section
variable {s : State} {v : CodeView}

/-- A step on the words of a well-formed instruction records it. -/
theorem step_of_encode (hwf : s.cfg.wf = true) (hst : s.st = .run) (hv : s.code = some v) {i : Instr}
    (hi : i.wf s.cfg = true) (hwords : WordsAt s.cfg s.mem v s.cur (encode s.cfg i))
    (hfit : s.cur + i.size s.cfg ≤ v.len.toNat) :
    step s = .next (s.commit (.ok (recordOf s.cfg s.cur (i.opcode s.cfg) i.head i.opword i.imm))) := by
  have hdec := dec_of_wordsAt (wf_operand hi) (wf_immediate hi) hwords hfit
  obtain ⟨-, -, hmin, -, hfit⟩ := dec_ok_bounds hdec
  rw [step_eq_seqStep hwf hst, seqStep_of_ok hv (by omega) hdec]

/-- A running sweep over the words of well-formed instructions up to the region's end records each of them and is DONE. -/
theorem run_of_encode (hwf : s.cfg.wf = true) (hst : s.st = .run) (hv : s.code = some v) {is : List Instr}
    (his : ∀ i ∈ is, i.wf s.cfg = true) (hwords : WordsAt s.cfg s.mem v s.cur (is.flatMap (encode s.cfg)))
    (hlen : s.cur + (is.flatMap (encode s.cfg)).length = v.len.toNat) :
    core.run (is.length + 1) s =
      .next { s with cur := v.len.toNat, st := .done, out := s.out ++ recordsFrom s.cfg s.cur is } := by
  induction is generalizing s with
  | nil =>
    rw [run_succ_of_next ((step_eq_seqStep hwf hst).trans (congrArg _ (seqStep_atEnd hv hlen))), ← hlen]
    simp only [recordsFrom, List.append_nil]
    rfl
  | cons i rest ih =>
    obtain ⟨hi, hrest⟩ := List.forall_mem_cons.mp his
    rw [List.flatMap_cons, wordsAt_append, encode_length hi] at hwords
    rw [List.flatMap_cons, List.length_append, encode_length hi] at hlen
    rw [List.length_cons, run_succ_of_next (step_of_encode hwf hst hv hi hwords.1 (by omega))]
    refine (ih (s := s.commit (.ok (recordOf s.cfg s.cur (i.opcode s.cfg) i.head i.opword i.imm))) hwf hst hv hrest
      hwords.2 ((Nat.add_assoc ..).trans hlen)).trans ?_
    rw [recordsFrom, List.append_cons]
    rfl

end

/-! ### Two regions of one code -/

/-- Two regions, in buffers of their own, hold the same code words. -/
def SameCode (c : Config) (m : Memory) (v : CodeView) (m' : Memory) (v' : CodeView) : Prop :=
  v.len = v'.len ∧ ∀ a, a < v.len.toNat → codeAt c m v a = codeAt c m' v' a

/-- The state with another buffer and region, and the sequencer's registers as they are. -/
def State.withRegion (s : State) (m : Memory) (v : CodeView) : State := { s with mem := m, code := some v }

section
variable {s : State} {v v' : CodeView} {m' : Memory}

/-- SEQ_STEP takes a state and the same state over another region of the same code to such a pair again (R70, R89). -/
theorem seqStep_withRegion (hv : s.code = some v) (hsame : SameCode s.cfg s.mem v m' v') :
    Reference.seqStep (s.withRegion m' v') = (Reference.seqStep s).withRegion m' v' := by
  obtain ⟨hlen, hcode⟩ := hsame
  have hdecEq : dec s.cfg s.mem v s.cur = dec s.cfg m' v' s.cur := dec_congr hlen fun a _ _ => hcode a
  have hv' : (s.withRegion m' v').code = some v' := rfl
  by_cases hcur : s.cur = v.len.toNat
  · rw [seqStep_atEnd hv hcur, seqStep_atEnd hv' (hlen ▸ hcur)]
    rfl
  have hcur' : s.cur ≠ v'.len.toNat := hlen ▸ hcur
  cases hdec : dec s.cfg s.mem v s.cur with
  | error f =>
    rw [seqStep_of_error hv hcur hdec, seqStep_of_error hv' hcur' (hdecEq.symm.trans hdec)]
    rfl
  | ok answer =>
    obtain ⟨d, size⟩ := answer
    obtain ⟨rfl, -⟩ := dec_ok_bounds hdec
    rw [seqStep_of_ok hv hcur hdec, seqStep_of_ok hv' hcur' (hdecEq.symm.trans hdec)]
    rfl

/-- A run over one region and the run over another region of the same code answer states that differ in the region alone,
or neither answers one. -/
theorem run_withRegion (hv : s.code = some v) (hsame : SameCode s.cfg s.mem v m' v') (n : Nat) :
    (∃ t, core.run n s = .next t ∧ core.run n (s.withRegion m' v') = .next (t.withRegion m' v')) ∨
    ((∀ t, core.run n s ≠ .next t) ∧ ∀ t', core.run n (s.withRegion m' v') ≠ .next t') := by
  induction n generalizing s with
  | zero => exact Or.inl ⟨s, rfl, rfl⟩
  | succ n ih =>
    by_cases hgoes : s.cfg.wf = true ∧ s.st = .run
    · have hstep := step_eq_seqStep hgoes.1 hgoes.2
      have hstep' : step (s.withRegion m' v') = .next ((Reference.seqStep s).withRegion m' v') :=
        (step_eq_seqStep (s := s.withRegion m' v') hgoes.1 hgoes.2).trans (congrArg _ (seqStep_withRegion hv hsame))
      obtain ⟨hcfg, hmem, hcode⟩ := step_keeps_inputs hstep
      rw [run_succ_of_next hstep, run_succ_of_next hstep']
      exact ih (hcode.trans hv) (by rwa [hcfg, hmem])
    · have hstuck {u : State} (hu : ¬ (u.cfg.wf = true ∧ u.st = .run)) (t : State) : core.run (n + 1) u ≠ .next t := by
        intro hrun
        obtain ⟨w, hw, -⟩ := run_succ_eq_next hrun
        exact hu (step_next_iff.mp ⟨w, hw⟩)
      exact Or.inr ⟨hstuck hgoes, hstuck (u := s.withRegion m' v') hgoes⟩

end

end Sys2Proof.Machine

namespace Sys2Proof
open Machine

/-! ### The statements about sweeps -/

/-- Settles O43: each case of a step keeps the invariant. -/
theorem stepKeepsSweepInvariant : Obligations.StepKeepsSweepInvariant := by
  intro s t h hstep
  exact step_inv h hstep

/-- Settles O44, by induction on the number of words left: a step that goes on takes at least one of them. -/
theorem sweepEndsWithinLenPlusOneSteps : Obligations.SweepEndsWithinLenPlusOneSteps := by
  intro s hwf _ hst
  exact run_ends hwf hst

/-- Settles O45: the invariant at ST = DONE, read with the region of the state that was reset. -/
theorem doneSweepTilesTheRegion : Obligations.DoneSweepTilesTheRegion := by
  intro s t n hrun hdone
  have hinv := run_resetFrom_inv hrun
  obtain ⟨hcfg, hmem, hcode⟩ := run_keeps_inputs hrun
  obtain ⟨hpresent, hcur⟩ := hinv.doneAtEnd hdone
  obtain ⟨v, hv⟩ := Option.isSome_iff_exists.mp hpresent
  have hdecoded := hinv.decoded v hv
  have htiled : Tiles 0 t.out v.len.toNat := len_of_code hv ▸ hcur ▸ hinv.tiled
  rw [hcfg, hmem] at hdecoded
  refine ⟨v, hcode.symm.trans hv, ⟨hdone, finfo_eq_none_of_inv hinv (by simp [hdone])⟩, htiled, hdecoded, fun a ha => ?_⟩
  exact exists_unique_covers htiled (Nat.zero_le a) ha

/-- Settles O46: the invariant at ST = FAULT, where the record of FINFO is justified by the absent region or by DEC. -/
theorem truncatedSweepKeepsItsPrefix : Obligations.TruncatedSweepKeepsItsPrefix := by
  intro s t n hrun hfault
  have hinv := run_resetFrom_inv hrun
  obtain ⟨hcfg, hmem, hcode⟩ := run_keeps_inputs hrun
  obtain ⟨f, hf⟩ := Option.isSome_iff_exists.mp (hinv.faultRecorded.mpr hfault)
  have hjustified := hinv.faultJustified f hf
  obtain hv | ⟨v, hv⟩ := Option.eq_none_or_eq_some t.code
  · obtain rfl := (faultJustified_of_absent hv).mp hjustified
    have hout := hinv.absent hv
    have htiled := hinv.tiled
    rw [hout] at htiled
    exact Or.inl ⟨hcode.symm.trans hv, hf, hout, htiled.symm⟩
  · obtain ⟨hdec, rfl⟩ := (faultJustified_of_code hv).mp hjustified
    have hdecoded := hinv.decoded v hv
    rw [hcfg, hmem] at hdecoded hdec
    exact Or.inr ⟨v, hcode.symm.trans hv, hinv.tiled, hdecoded, lt_of_dec_truncated hdec, hf, hdec⟩

/-- Settles O47, by induction on the instructions: each step records the instruction whose words stand at the cursor. -/
theorem sweepOfSynthesisedInstructions : Obligations.SweepOfSynthesisedInstructions := by
  intro s v is hwf his hv hlen hregion
  have hwords : WordsAt s.cfg s.mem v 0 (is.flatMap (encode s.cfg)) := by
    intro j w hw
    have hj := (List.getElem?_eq_some_iff.mp hw).1
    rw [Nat.zero_add]
    exact Option.some.inj ((hregion j (hlen ▸ hj)).symm.trans hw)
  refine ⟨_, run_of_encode (s := s.resetFrom) hwf rfl hv his hwords ((Nat.zero_add _).trans hlen), rfl, rfl,
    recordsFrom_length s.cfg 0 is, fun j i hi => ?_⟩
  obtain ⟨p, hp⟩ := recordsFrom_getElem? (c := s.cfg) (pos := 0) hi
  exact ⟨_, hp, rfl, rfl, rfl, rfl, rfl⟩

/-- Settles O48: the second state's reset is the first one's over another region of the same code. -/
theorem sweepDependsOnTheCodeWordsAlone : Obligations.SweepDependsOnTheCodeWordsAlone := by
  intro s s' v v' n hcfg hv hv' hlen hcode
  have hreset : s'.resetFrom = s.resetFrom.withRegion s'.mem v' := by
    simp only [State.resetFrom, State.withRegion, hcfg, hv']
  rw [← hcfg] at hcode
  obtain ⟨t, ht, ht'⟩ | hneither := run_withRegion (s := s.resetFrom) hv ⟨hlen, hcode⟩ n
  · exact Or.inl ⟨t, t.withRegion s'.mem v', ht, hreset ▸ ht', rfl, rfl, rfl, rfl⟩
  · exact Or.inr (hreset ▸ hneither)

end Sys2Proof
end

section
/-!
Proofs of the statements about the opcode catalogue (spec/43_opcode_catalogue.md): the rows of the opcode table (R91, R94,
R134 to R144), the members of the high block (R137 to R141), and that each row of the table is decoded with its own arity and
text, recorded, and passed over by its size (R67, R82).
-/

namespace Sys2Proof

/-! ### The rows of the opcode table -/

/-- The opcode table answers a 9-bit id with this arity, this mnemonic, and whether the id is populated (R91). -/
structure Config.HasRow (c : Config) (id n : Nat) (mnemonic : Text) (known : Bool) : Prop where
  inRange : id ≤ 511
  arity : c.arityId id = n
  mnem : c.mnemId id = mnemonic
  populated : c.populatedId id = known

section
variable {c : Config}

/-- The two columns of a row, read at the 9-bit id of its number (R24). -/
theorem Config.HasRow.columns_at {id n : Nat} {mnemonic : Text} {known : Bool} (hrow : c.HasRow id n mnemonic known)
    {op : OpId} (hop : op.toNat = id) : c.arity op = n ∧ c.mnem op = mnemonic := by
  subst hop
  exact ⟨hrow.arity, hrow.mnem⟩

theorem Config.HasRow.populated_at {id n : Nat} {mnemonic : Text} {known : Bool} (hrow : c.HasRow id n mnemonic known)
    {op : OpId} (hop : op.toNat = id) : c.populated op = known := by
  subst hop
  exact hrow.populated

/-- An id of the low block has the row of its own parameters (R94). -/
theorem hasRow_low (c : Config) (i : Fin 39) : c.HasRow i.val c.arityLow[i] c.mnemLow[i] true where
  inRange := by omega
  arity := arityId_low i.isLt
  mnem := mnemId_low i.isLt
  populated := populatedId_iff.mpr (Or.inl i.isLt)

theorem mnemId_s1 (hwf : c.wf = true) : c.mnemId c.s1 = c.mnemS1 := by
  obtain ⟨hlow, -⟩ := Config.wf_bounds hwf
  rw [Config.mnemId, dif_neg (Nat.not_lt_of_le hlow), if_pos rfl]

theorem mnemId_s2 (hwf : c.wf = true) : c.mnemId c.s2 = c.mnemS2 := by
  obtain ⟨hlow, horder, -⟩ := Config.wf_bounds hwf
  rw [Config.mnemId, dif_neg (Nat.not_lt_of_le (hlow.trans horder.le)), if_neg horder.ne', if_pos rfl]

/-- The text of a high-block id is that of its place in the block (R93, R137). -/
theorem mnemId_high (hwf : c.wf = true) (j : Fin 4) : c.mnemId (c.highBase + j.val) = c.mnemHigh[j] := by
  have hbounds := Config.wf_bounds hwf
  have hplace : c.highBase ≤ c.highBase + j.val ∧ c.highBase + j.val < c.highBase + Literal.highCount :=
    ⟨Nat.le_add_right _ _, Nat.add_lt_add_left j.isLt _⟩
  rw [Config.mnemId, dif_neg (by change ¬ _ < 39; omega), if_neg (by omega), if_neg (by omega), dif_pos hplace]
  simp only [Nat.add_sub_cancel_left, Fin.getElem_fin]

/-- S1 has the row of its own parameters (R135, D5). -/
theorem hasRow_s1 (hwf : c.wf = true) : c.HasRow c.s1 c.arityS1 c.mnemS1 true where
  inRange := by have := Config.wf_bounds hwf; omega
  arity := arityId_s1 hwf
  mnem := mnemId_s1 hwf
  populated := populatedId_iff.mpr (Or.inr (Or.inl rfl))

/-- S2 has the row of its own parameters (R136, D5). -/
theorem hasRow_s2 (hwf : c.wf = true) : c.HasRow c.s2 c.arityS2 c.mnemS2 true where
  inRange := by have := Config.wf_bounds hwf; omega
  arity := arityId_s2 hwf
  mnem := mnemId_s2 hwf
  populated := populatedId_iff.mpr (Or.inr (Or.inr (Or.inl rfl)))

/-- An id of the high block has arity 2 and the text of its place (R137). -/
theorem hasRow_high (hwf : c.wf = true) (j : Fin 4) : c.HasRow (c.highBase + j.val) 2 c.mnemHigh[j] true where
  inRange := by have := Config.wf_bounds hwf; omega
  arity := arityId_high hwf (by omega)
  mnem := mnemId_high hwf j
  populated := populatedId_iff.mpr (by omega)

/-- IMM_COPY_ID has a populated row of arity 2 (R142). -/
theorem hasRow_immCopy (hwf : c.wf = true) : c.HasRow c.immCopyId 2 (c.mnemId c.immCopyId) true where
  inRange := (immCopyId_le hwf).trans (by decide)
  arity := (Config.wf_imm hwf).2
  mnem := rfl
  populated := (Config.wf_imm hwf).1

/-- Every id that is not populated has arity 0 and the ERROR text (R144). -/
theorem hasRow_of_not_populated {id : Nat} (hid : id ≤ 511) (hp : c.populatedId id = false) :
    c.HasRow id 0 c.errorText false where
  inRange := hid
  arity := arityId_of_not_populated hp
  mnem := mnemId_of_not_populated hp
  populated := hp

/-- IMM_COPY_ID is none of the unpopulated ids (R92, R142). -/
theorem ne_immCopyId_of_not_populated (hwf : c.wf = true) {id : Nat} (hp : c.populatedId id = false) :
    id ≠ c.immCopyId := by
  rintro rfl
  exact Bool.false_ne_true (hp.symm.trans (Config.wf_imm hwf).1)

/-- An unpopulated id has no register-mode position and no immediate, whatever its flags (R144). -/
theorem shape_of_not_populated (hwf : c.wf = true) {op : OpId} (hp : c.populated op = false) (h : Head) :
    regCount (c.arity op) h = 0 ∧ c.isImmCopy op = false := by
  have harity : c.arity op = 0 := arityId_of_not_populated hp
  rw [harity]
  exact ⟨regCount_zero h, isImmCopy_eq_false_iff.mpr (ne_immCopyId_of_not_populated hwf hp)⟩

/-- The high block, as the one known id and the three others (R137 to R141). -/
theorem mem_highBlock_iff (hwf : c.wf = true) {id : Nat} :
    (c.highBase ≤ id ∧ id ≤ c.highBase + 3) ↔ (id = 66 ∨ id = c.highA ∨ id = c.highB ∨ id = c.highC) := by
  have hbounds := Config.wf_bounds hwf
  have hhigh := highOther_bounds hwf
  omega

/-- Each high-block id has its place in the block. -/
theorem exists_highPlace (hwf : c.wf = true) {id : Nat}
    (hid : id = 66 ∨ id = c.highA ∨ id = c.highB ∨ id = c.highC) : ∃ j : Fin 4, id = c.highBase + j.val := by
  obtain ⟨hmin, hmax⟩ := (mem_highBlock_iff hwf).mpr hid
  exact ⟨⟨id - c.highBase, by omega⟩, by dsimp only; omega⟩

end

/-! ### The rows of the low block -/

/-- The reference rows of the low block are the decoder's (R95 to R133). -/
theorem lowInstr_of_mem_lowRows : ∀ row ∈ Reference.lowRows, lowInstr row.1.val = some row.2 := by
  have hrows : Reference.lowRows.map (fun row => lowInstr row.1.val) = Reference.lowRows.map (fun row => some row.2) := rfl
  exact List.map_inj_left.mp hrows

/-- An instruction of a low-block row carries the row's id and what its constructor is given. -/
theorem lowRow_carries {row : Fin 39 × (Head → Option Word → Option Word → Instr)} (hrow : row ∈ Reference.lowRows)
    (c : Config) (h : Head) (ow imm : Option Word) : (row.2 h ow imm).Carries c (.ofNat 9 row.1.val) h ow imm := by
  have hid : (BitVec.ofNat 9 row.1.val).toNat = row.1.val := toNat_ofNat9 (by omega)
  obtain ⟨f, hf, hcarries⟩ := lowInstr_of_lt (hid.trans_lt row.1.isLt)
  rw [hid, lowInstr_of_mem_lowRows row hrow] at hf
  obtain rfl := Option.some.inj hf
  exact hcarries c h ow imm

end Sys2Proof

namespace Sys2Proof.Machine

/-! ### The meaning of an instruction of a row -/

section
variable {s : State} {v : CodeView} {i : Instr} {id n : Nat} {mnemonic : Text} {known : Bool} {h : Head}
  {ow imm : Option Word}

/-- An instruction of a row of the table, with the words its layout has and within the region, is recorded with the row's
arity and text, and passed over by its size (R67, R82). -/
theorem exec_of_hasRow (hrow : s.cfg.HasRow id n mnemonic known) (hi : i.Carries s.cfg (.ofNat 9 id) h ow imm)
    (hv : s.code = some v) (how : ow.isSome = decide (1 ≤ Reference.count n h))
    (himm : imm.isSome = decide (id = s.cfg.immCopyId))
    (hfit : s.cur + Reference.size (Reference.count n h) (decide (id = s.cfg.immCopyId)) ≤ v.len.toNat) :
    exec i s = .next (Reference.recorded s (Reference.record s.cfg s.cur id n mnemonic known h ow imm)) := by
  have hid : (BitVec.ofNat 9 id).toNat = id := toNat_ofNat9 hrow.inRange
  generalize BitVec.ofNat 9 id = op at hid hi
  obtain ⟨rfl, rfl⟩ := hrow.columns_at hid
  obtain rfl := hrow.populated_at hid
  subst hid
  rw [← regCount_eq_count] at how hfit
  rw [size_eq_sizeOfShape] at hfit
  have hneeded : ow.isSome = true → 1 ≤ regCount (s.cfg.arity op) h := fun hsome =>
    of_decide_eq_true (how.symm.trans hsome)
  rw [exec_of_carries hi, emitAs_present hv, decodeFields_ok how himm hfit, recordOf_eq_record hneeded]
  rfl

/-- An instruction of an unpopulated id is one word: below LEN it is recorded with the ERROR text (R144). -/
theorem exec_of_not_populated (hwf : s.cfg.wf = true) (hid : id ≤ 511) (hp : s.cfg.populatedId id = false)
    (hi : i.Carries s.cfg (.ofNat 9 id) h none none) (hv : s.code = some v) (hcur : s.cur < v.len.toNat) :
    (Reference.record s.cfg s.cur id 0 s.cfg.errorText false h none none).size = 1 ∧
      exec i s = .next (Reference.recorded s
        (Reference.record s.cfg s.cur id 0 s.cfg.errorText false h none none)) := by
  have hcount : Reference.count 0 h = 0 := Nat.le_zero.mp (count_le_arity 0 h)
  have himm : decide (id = s.cfg.immCopyId) = false := decide_eq_false (ne_immCopyId_of_not_populated hwf hp)
  have hsize : Reference.size (Reference.count 0 h) (decide (id = s.cfg.immCopyId)) = 1 := by rw [hcount, himm]; rfl
  exact ⟨hsize, exec_of_hasRow (hasRow_of_not_populated hid hp) hi hv (by rw [hcount]; rfl) himm.symm (by omega)⟩

end

/-- DEC below LEN on a word of an unpopulated id: its record without trailing words, and size 1 (R144). -/
theorem dec_of_not_populated {c : Config} {m : Memory} {v : CodeView} {pos : Nat} {w : Word} (hwf : c.wf = true)
    (hpos : pos < v.len.toNat) (hw : codeAt c m v pos = w) (hp : c.populated (opcodeField w) = false) :
    dec c m v pos = .ok (recordOf c pos (opcodeField w) (headField w) none none, 1) := by
  obtain ⟨hk, himm⟩ := shape_of_not_populated hwf hp (headField w)
  have hdec := dec_of_fit hw hk (by rw [himm]; exact hpos)
  rw [himm] at hdec
  exact hdec

end Sys2Proof.Machine

namespace Sys2Proof
open Machine

/-! ### The statements about the table -/

/-- Settles O13: the classes of populated ids, each with its row. -/
theorem opcodeTableRom : Obligations.OpcodeTableRom := by
  intro c op hwf
  refine ⟨?populated, fun i hi => ?low, fun hs1 => ?s1, fun hs2 => ?s2, fun j hj => ?high, fun hp => ?others,
    arityId_le hwf op.toNat⟩
  case populated => exact populatedId_iff.trans (by omega)
  case low => exact (hasRow_low c i).columns_at hi
  case s1 => exact (hasRow_s1 hwf).columns_at hs1
  case s2 => exact (hasRow_s2 hwf).columns_at hs2
  case high => exact (hasRow_high hwf j).columns_at hj
  case others => exact ⟨arityId_of_not_populated hp, mnemId_of_not_populated hp⟩

/-- Settles O15: the block's four consecutive ids, 66 among them, leave three others in increasing order. -/
theorem highBlockMembers : Obligations.HighBlockMembers := by
  intro c hwf
  have hbounds := Config.wf_bounds hwf
  obtain ⟨hbase, hab, hbc, hend, ha, hb, hc⟩ := highOther_bounds hwf
  refine ⟨fun id => mem_highBlock_iff hwf, hab, hbc, ha, hb, hc, ?_⟩
  simp only [List.mem_cons, List.not_mem_nil, or_false]
  omega

/-- Settles O22: an unpopulated id has arity 0 and is not IMM_COPY_ID, so DEC takes its one word. -/
theorem unpopulatedIdDecodesAsErrorClass : Obligations.UnpopulatedIdDecodesAsErrorClass := by
  intro c m v pos hwf hpos
  refine ⟨?ids, fun hp => ⟨_, dec_of_not_populated hwf hpos rfl hp, ?record⟩⟩
  case ids =>
    have hbounds := Config.wf_bounds hwf
    exact populatedId_eq_false_iff.trans (by omega)
  case record =>
    have hshape := shape_of_not_populated hwf hp (headField (codeAt c m v pos))
    exact ⟨rfl, headWord_fields _, rfl, rfl, arityId_of_not_populated hp, hshape.1, rfl, rfl, rfl, rfl, hp,
      mnemId_of_not_populated hp, sizeOfShape_eq_one_iff.mpr hshape⟩

/-! ### The statements about the rows -/

/-- Settles O26, for each of the 39 rows from the row its id has in the table. -/
theorem lowBlockDecodes : Obligations.LowBlockDecodes := by
  intro row hmem s v h ow imm n isImm hv how himm hfit
  exact exec_of_hasRow (hasRow_low s.cfg row.1) (lowRow_carries hmem s.cfg h ow imm) hv how himm hfit

/-- Settles O27, from the row of S1. -/
theorem singletonS1Decodes : Obligations.SingletonS1Decodes := by
  intro s v h ow imm isImm hwf hv how himm hfit
  exact exec_of_hasRow (hasRow_s1 hwf) ⟨rfl, rfl, rfl, rfl⟩ hv how himm hfit

/-- Settles O28, from the row of S2. -/
theorem singletonS2Decodes : Obligations.SingletonS2Decodes := by
  intro s v h ow imm isImm hwf hv how himm hfit
  exact exec_of_hasRow (hasRow_s2 hwf) ⟨rfl, rfl, rfl, rfl⟩ hv how himm hfit

/-- Settles O29: each of the four ids has a place in the block, and the row of that place. -/
theorem highBlockDecodes : Obligations.HighBlockDecodes := by
  intro s v h ow imm hwf hv row hmem isImm how himm hfit
  obtain ⟨hid, hcarries⟩ : (row.1 = 66 ∨ row.1 = s.cfg.highA ∨ row.1 = s.cfg.highB ∨ row.1 = s.cfg.highC) ∧
      (row.2 h ow imm).Carries s.cfg (.ofNat 9 row.1) h ow imm := by
    simp only [List.mem_cons, List.not_mem_nil, or_false] at hmem
    obtain rfl | rfl | rfl | rfl := hmem
    · exact ⟨Or.inr (Or.inl rfl), rfl, rfl, rfl, rfl⟩
    · exact ⟨Or.inr (Or.inr (Or.inl rfl)), rfl, rfl, rfl, rfl⟩
    · exact ⟨Or.inl rfl, rfl, rfl, rfl, rfl⟩
    · exact ⟨Or.inr (Or.inr (Or.inr rfl)), rfl, rfl, rfl, rfl⟩
  obtain ⟨j, hj⟩ := exists_highPlace hwf hid
  exact ⟨j, hj, exec_of_hasRow (hj ▸ hasRow_high hwf j) hcarries hv how himm hfit⟩

/-- Settles O30, from the row of IMM_COPY_ID, whose size counts the immediate whatever k is. -/
theorem immediateCopyDecodes : Obligations.ImmediateCopyDecodes := by
  intro s v h ow x hwf hv how hfit
  have hrow := hasRow_immCopy hwf
  have hsize : Reference.size (Reference.count 2 h) (decide (s.cfg.immCopyId = s.cfg.immCopyId)) =
      2 + (if 1 ≤ Reference.count 2 h then 1 else 0) := by
    rw [size_eq_sizeOfShape, sizeOfShape, decide_eq_true rfl, if_pos rfl]
    omega
  have hcarries : (Instr.immCopy h ow (some x)).Carries s.cfg (.ofNat 9 s.cfg.immCopyId) h ow (some x) :=
    ⟨rfl, rfl, rfl, rfl⟩
  obtain ⟨-, hmnem⟩ := hrow.columns_at (toNat_ofNat9 hrow.inRange)
  rw [hmnem]
  refine ⟨_, exec_of_hasRow hrow hcarries hv how (decide_eq_true rfl).symm ?fit, ?cur, rfl⟩
  case fit => rwa [hsize, ← Nat.add_assoc]
  case cur => exact (congrArg (s.cur + ·) hsize).trans (Nat.add_assoc ..).symm

/-- Settles O31: both rows are of unpopulated ids, the sentinel's by the checks of R92. -/
theorem sentinelAndErrorClassDecode : Obligations.SentinelAndErrorClassDecode := by
  intro s v h op hwf hv hcur
  refine ⟨?sentinel, fun hp => ?errorClass⟩
  case sentinel =>
    have hbounds := Config.wf_bounds hwf
    exact exec_of_not_populated hwf (by omega) (sentinel_not_populated hwf) ⟨rfl, rfl, rfl, rfl⟩ hv hcur
  case errorClass =>
    have hop : BitVec.ofNat 9 op.toNat = op := ofNat_eq_of_toNat_eq rfl
    exact exec_of_not_populated hwf (Nat.le_of_lt_succ op.isLt) hp ⟨hop.symm, rfl, rfl, rfl⟩ hv hcur

end Sys2Proof
end

section
/-!
Proofs of the statements about faults (spec/60_exceptions.md): DEC's two faults (R148, R149), and the fault that an
instruction or a step takes with no region, at or beyond LEN, and past LEN (R150, R154).
-/

namespace Sys2Proof.Machine

/-! ### The fault an instruction takes -/

/-- The cursor check comes first: at or beyond LEN nothing else of the instruction counts (R148, R153). -/
theorem decodeFields_of_le {len pos : Nat} (hpos : len ≤ pos) (c : Config) (op : OpId) (h : Head) (ow imm : Option Word) :
    decodeFields c len pos op h ow imm = .error (cursorFault pos len) := by
  unfold decodeFields
  exact if_pos hpos

/-- With no region every instruction takes NoCodeRegion (R150). -/
theorem exec_absent {s : State} (hv : s.code = none) (i : Instr) : exec i s = .next (s.takeFault noRegionFault) := by
  rw [exec_eq_emitAs, emitAs_absent hv]

section
variable {s : State} {v : CodeView}

/-- At or beyond LEN every instruction takes CursorOutOfRange (R148). -/
theorem exec_of_le (hv : s.code = some v) (hcur : v.len.toNat ≤ s.cur) (i : Instr) :
    exec i s = .next (s.takeFault (cursorFault s.cur v.len.toNat)) := by
  rw [exec_eq_emitAs, emitAs_present hv, decodeFields_of_le hcur, commit_error]

/-- An instruction with its operand word as its layout has it, but past LEN, takes TruncatedInstruction at LEN: the first
index that cannot be read is LEN, whichever of its trailing words stands there (R149). -/
theorem exec_of_truncated {i : Instr} (hv : s.code = some v) (hcur : s.cur < v.len.toNat)
    (how : i.opword.isSome = decide (1 ≤ regCount (i.arity s.cfg) i.head))
    (hlen : v.len.toNat < s.cur + sizeOfShape (regCount (i.arity s.cfg) i.head) (s.cfg.isImmCopy (i.opcode s.cfg))) :
    exec i s = .next (s.takeFault (truncatedFault s.cur v.len.toNat v.len.toNat)) := by
  rw [exec_eq_emitAs, emitAs_present hv, decodeFields_truncated how hcur hlen, commit_error]

end

end Sys2Proof.Machine

namespace Sys2Proof
open Machine

/-! ### The statements about faults -/

/-- Settles O17: the cursor check at or beyond LEN, and below it `dec_of_truncated` on the word at the cursor. -/
theorem decFaults : Obligations.DecFaults := by
  intro c m v pos w len size
  refine ⟨dec_of_le, fun hpos hlen => ?truncated, rfl, rfl, rfl⟩
  case truncated =>
    have hsize : size = sizeOfShape (regCount (c.arity (opcodeField w)) (headField w)) (c.isImmCopy (opcodeField w)) := by
      rw [regCount_eq_count, ← size_eq_sizeOfShape]
      rfl
    rw [hsize] at hlen
    exact dec_of_truncated rfl rfl hpos hlen

/-- Settles O32: `exec_of_truncated`, the size of R44's table being that of the shape. -/
theorem truncatedInstructionIsTaken : Obligations.TruncatedInstructionIsTaken := by
  intro i s v hv hcur how _ hlen
  rw [← regCount_eq_count] at how hlen
  rw [size_eq_sizeOfShape] at hlen
  exact exec_of_truncated hv hcur how hlen

/-- Settles O33: an absent region is checked before anything else, and the end of a present one before the fetch. -/
theorem absentRegionFaults : Obligations.AbsentRegionFaults := by
  intro s hwf hst
  rw [step_run hwf hst]
  refine ⟨fun hv => ⟨runStep_absent hv, exec_absent hv⟩, fun v hv hcur => ?atEnd⟩
  case atEnd => exact runStep_atEnd hv hcur

/-- Settles O34: at or beyond LEN the cursor check of every instruction fails, and beyond LEN the step finds no word. -/
theorem cursorBeyondRegionFaults : Obligations.CursorBeyondRegionFaults := by
  intro s v hv hcur
  refine ⟨exec_of_le hv hcur, fun hwf hst hne => ?step⟩
  case step =>
    rw [step_run hwf hst]
    exact runStep_beyond hv (Nat.lt_of_le_of_ne hcur hne)

end Sys2Proof
end

section
/-!
Proofs of the statements about reset and supply (spec/70_reset_and_hazards.md): the state after reset (R159), and an
instruction placed at the cursor before the next step (R161).
-/

namespace Sys2Proof.Machine

/-! ### Reset -/

/-- The machine's reset state is what the reset operation makes of it (R159). -/
theorem reset_eq_resetFrom : State.reset = State.reset.resetFrom := rfl

/-- The reset configuration passes each of the six checks of R92 (log 2). -/
theorem reset_cfg_wf : State.reset.cfg.wf = true := by decide

/-! ### An instruction placed at the cursor -/

/-- LEN is a 16-bit count (R27). -/
theorem len_le_maxLen (s : State) : s.len ≤ 65535 := by
  unfold State.len
  split
  · exact Nat.le_of_lt_succ (BitVec.isLt _)
  · exact Nat.zero_le _

/-- From where an instruction is placed, LEN can reach the longest instruction's last word (log 18). -/
theorem placeCursor_add_three_le (s : State) : placeCursor s + 3 ≤ 65535 := by
  unfold placeCursor
  split_ifs with h
  · exact h
  · decide

/-- A placement makes a region present that holds the words from the cursor on and reaches the last of them (R161). -/
theorem placeWords_region {s : State} {ws : List Word} (hmem : s.mem.wf) (hws : ws.length ≤ 3) :
    ∃ v, (placeWords s ws).code = some v ∧ v.len.toNat = max s.len (placeCursor s + ws.length) ∧
      WordsAt s.cfg (placeWords s ws).mem v (placeCursor s) ws := by
  refine ⟨_, rfl, ?len, fun j w hw => ?word⟩
  case len =>
    have hreach := (Nat.add_le_add_left hws _).trans (placeCursor_add_three_le s)
    rw [BitVec.toNat_ofNat]
    exact Nat.mod_eq_of_lt (Nat.lt_succ_of_le (max_le (len_le_maxLen s) hreach))
  case word =>
    obtain ⟨hj, rfl⟩ := List.getElem?_eq_some_iff.mp hw
    rw [codeAt, Nat.mul_add, ← Nat.add_assoc]
    exact Memory.readWord_writeWords hmem hj

/-- A region holds only one list of words of a given length at a place. -/
theorem eq_of_wordsAt {c : Config} {m : Memory} {v : CodeView} {pos : Nat} {xs ys : List Word}
    (hxs : WordsAt c m v pos xs) (hys : WordsAt c m v pos ys) (hlength : xs.length = ys.length) : xs = ys := by
  refine List.ext_getElem hlength fun j hx hy => ?_
  exact (hxs j _ (List.getElem?_eq_getElem hx)).symm.trans (hys j _ (List.getElem?_eq_getElem hy))

/-- The fetch finds a placement of three words, the most it looks at, word for word (R31). -/
theorem fetchWindow_placeWords {s : State} {ws : List Word} (hmem : s.mem.wf) (hws : ws.length = 3) :
    (placeWords s ws).fetchWindow = ws := by
  obtain ⟨v, hv, hlen, hwords⟩ := placeWords_region hmem hws.le
  refine eq_of_wordsAt (wordsAt_fetchWindow hv) hwords ?_
  rw [fetchWindow_length hv, placeWords_cur]
  omega

theorem tableWords_length (nbits w : Nat) : (tableWords nbits w).length = 3 := rfl

end Sys2Proof.Machine

namespace Sys2Proof
open Machine

/-! ### The statements about reset and supply -/

/-- Settles O36: the fetch finds the words placed, all below LEN, and the step runs what they decode to. -/
theorem placedInstructionRunsNext : Obligations.PlacedInstructionRunsNext := by
  intro s w i rest hwf hmem hdecode
  have hwindow := fetchWindow_placeWords (ws := tableWords 16 w) hmem (tableWords_length 16 w)
  obtain ⟨v, hv, hlen, -⟩ := placeWords_region hmem (tableWords_length 16 w).le
  rw [tableWords_length] at hlen
  have hcur : placeCursor s < v.len.toNat := by omega
  rw [← hwindow] at hdecode
  exact stepRunsTheDecodedInstruction (s.withFetchWord 16 w) v i rest hwf rfl hv hcur hdecode

/-- Settles O42: the reset values field by field, and the invariant of every state after reset. -/
theorem sweepInvariantAfterReset : Obligations.SweepInvariantAfterReset := by
  refine ⟨fun s => ?operation, rfl, rfl, rfl, rfl, ?invariant, Memory.wf_nil, reset_cfg_wf⟩
  case operation => exact ⟨rfl, rfl, rfl, rfl, rfl, rfl, rfl, resetFrom_inv s⟩
  case invariant =>
    rw [reset_eq_resetFrom]
    exact resetFrom_inv State.reset

end Sys2Proof
end

section
/-!
Proofs of the statements that decode and encode are inverse to each other (spec/30_encoding.md sections 1 to 5, 40_decode.md
section 2), for all 48 rows of the opcode table, and of the sample words of 95_test_vectors.md, which are encodings.
-/

namespace Sys2Proof

/-! ### The row that an id decodes to -/

section
variable {c : Config} {op : OpId} {h : Head} {ow imm : Option Word}

/-- IMM_COPY_ID decodes to the immediate copy, which overlays the row of that id (R142, log 12). -/
theorem instrOf_of_isImmCopy (hi : c.isImmCopy op = true) : instrOf c op h ow imm = .immCopy h ow imm := if_pos hi

/-- Any other id of the low block decodes to its own row (R94). -/
theorem instrOf_of_low (hi : c.isImmCopy op = false) {f : Head → Option Word → Option Word → Instr}
    (hf : lowInstr op.toNat = some f) : instrOf c op h ow imm = f h ow imm := by
  rw [instrOf, hi, hf]
  rfl

/-- Any other id beyond the low block decodes to the row whose id it is, and to the ERROR class where it is none's (R134,
R137, R143, R144). -/
theorem instrOf_of_beyond_low (hi : c.isImmCopy op = false) {id : Nat} (hid : op.toNat = id) (hlow : 39 ≤ id) :
    instrOf c op h ow imm =
      if id = c.s1 then .s1 h ow imm
      else if id = c.s2 then .s2 h ow imm
      else if id = 66 then .op66 h ow imm
      else if id = c.highA then .ha h ow imm
      else if id = c.highB then .hb h ow imm
      else if id = c.highC then .hc h ow imm
      else if id = c.sentinelId then .sentinel h
      else .errorClass op h := by
  subst hid
  rw [instrOf, hi, lowInstr_none hlow]
  rfl

/-- An unpopulated id lies beyond the low block and is none of the ids of the populated rows (R91, R134, R137). -/
theorem ne_of_not_populated (hwf : c.wf = true) {id : Nat} (hp : c.populatedId id = false) :
    39 ≤ id ∧ id ≠ c.s1 ∧ id ≠ c.s2 ∧ id ≠ 66 ∧ id ≠ c.highA ∧ id ≠ c.highB ∧ id ≠ c.highC := by
  have hbounds := Config.wf_bounds hwf
  have hhigh := highOther_bounds hwf
  rw [populatedId_eq_false_iff] at hp
  omega

/-- An unpopulated id decodes to the sentinel or to the ERROR class (R143, R144). -/
theorem instrOf_of_not_populated (hwf : c.wf = true) (hp : c.populated op = false) :
    instrOf c op h ow imm = if op.toNat = c.sentinelId then .sentinel h else .errorClass op h := by
  obtain ⟨hlow, hs1, hs2, h66, ha, hb, hc⟩ := ne_of_not_populated hwf hp
  rw [instrOf_of_beyond_low (shape_of_not_populated hwf hp h).2 rfl hlow, if_neg hs1, if_neg hs2, if_neg h66, if_neg ha,
    if_neg hb, if_neg hc]

/-- A low-block row is the row of its id exactly when that id is not IMM_COPY_ID (log 12). -/
theorem lowInstr_idOk {n : Nat} {f : Head → Option Word → Option Word → Instr} (hf : lowInstr n = some f) :
    (f h ow imm).idOk c = !c.isImmCopy ((f h ow imm).opcode c) := by
  unfold lowInstr at hf
  split at hf <;> cases hf <;> rfl

end

/-- The row that an instruction's id decodes to is the instruction's own (log 12). -/
theorem instrOf_opcode {c : Config} {i : Instr} (hwf : c.wf = true) (hid : i.idOk c = true) :
    instrOf c (i.opcode c) i.head i.opword i.imm = i := by
  have hbounds := Config.wf_bounds hwf
  have hhigh := highOther_bounds hwf
  cases i
  case immCopy =>
    have himm := (immCopyId_le hwf).trans (by decide : 69 ≤ 511)
    exact instrOf_of_isImmCopy (isImmCopy_eq_true_iff.mpr (toNat_ofNat9 himm))
  case sentinel =>
    have hop : (BitVec.ofNat 9 c.sentinelId).toNat = c.sentinelId := toNat_ofNat9 (by omega)
    have hp : c.populated (.ofNat 9 c.sentinelId) = false := by
      rw [Config.populated, hop, sentinel_not_populated hwf]
    exact (instrOf_of_not_populated hwf hp).trans (if_pos hop)
  case errorClass =>
    rw [Instr.idOk, Bool.and_eq_true, Bool.not_eq_true', decide_eq_true_eq] at hid
    obtain ⟨hp, hsentinel⟩ := hid
    exact (instrOf_of_not_populated hwf hp).trans (if_neg hsentinel)
  all_goals have hi := (Bool.not_eq_true' _).mp hid
  case s1 => rw [instrOf_of_beyond_low hi (toNat_ofNat9 (by omega)) (by omega), if_pos rfl]; rfl
  case s2 => rw [instrOf_of_beyond_low hi (toNat_ofNat9 (by omega)) (by omega), if_neg (by omega), if_pos rfl]; rfl
  case op66 =>
    rw [instrOf_of_beyond_low hi (id := 66) rfl (by decide), if_neg (by omega), if_neg (by omega), if_pos rfl]
    rfl
  case ha =>
    rw [instrOf_of_beyond_low hi (toNat_ofNat9 (by omega)) (by omega), if_neg (by omega), if_neg (by omega),
      if_neg (by omega), if_pos rfl]
    rfl
  case hb =>
    rw [instrOf_of_beyond_low hi (toNat_ofNat9 (by omega)) (by omega), if_neg (by omega), if_neg (by omega),
      if_neg (by omega), if_neg (by omega), if_pos rfl]
    rfl
  case hc =>
    rw [instrOf_of_beyond_low hi (toNat_ofNat9 (by omega)) (by omega), if_neg (by omega), if_neg (by omega),
      if_neg (by omega), if_neg (by omega), if_neg (by omega), if_pos rfl]
    rfl
  -- What is left are the 39 rows of the low block.
  all_goals exact instrOf_of_low hi rfl

/-- The ERROR class is the row of every unpopulated id but the sentinel's (R144). -/
theorem errorClass_idOk {c : Config} {op : OpId} (hp : c.populated op = false) (hsentinel : op.toNat ≠ c.sentinelId)
    (h : Head) : (Instr.errorClass op h).idOk c = true := by
  rw [Instr.idOk, hp, decide_eq_true hsentinel]
  rfl

/-- The decoder chooses a row that its id decodes to: no overlaid row for IMM_COPY_ID, and the ERROR class only for an
unpopulated id other than the sentinel's (log 12). -/
theorem instrOf_idOk {c : Config} {op : OpId} {h : Head} {ow imm : Option Word} (hwf : c.wf = true)
    (hop : (instrOf c op h ow imm).opcode c = op) : (instrOf c op h ow imm).idOk c = true := by
  cases hi : c.isImmCopy op
  case true =>
    rw [instrOf_of_isImmCopy hi]
    rfl
  case false =>
    have hrow : (!c.isImmCopy ((instrOf c op h ow imm).opcode c)) = true := by rw [hop, hi]; rfl
    by_cases hlow : op.toNat < 39
    · obtain ⟨f, hf, -⟩ := lowInstr_of_lt hlow
      rw [instrOf_of_low hi hf] at hrow ⊢
      exact (lowInstr_idOk hf).trans hrow
    rw [instrOf_of_beyond_low hi rfl (Nat.le_of_not_lt hlow)] at hrow ⊢
    split_ifs at hrow ⊢ with hs1 hs2 h66 ha hb hc hsentinel
    -- S1, S2 and the four high-block rows ask only that their id is not IMM_COPY_ID.
    iterate 6 exact hrow
    · rfl
    · have hp := populatedId_eq_false_of_ne hwf (Nat.le_of_not_lt hlow) hs1 hs2 h66 ha hb hc
      exact errorClass_idOk hp hsentinel h

/-! ### The words of an instruction -/

/-- An instruction is well formed when its row is its id's and it has exactly the trailing words of its layout. -/
theorem wf_of_shape {c : Config} {i : Instr} {n : Nat} (hid : i.idOk c = true) (harity : c.arity (i.opcode c) = n)
    (how : i.opword.isSome = decide (1 ≤ regCount n i.head)) (himm : i.imm.isSome = c.isImmCopy (i.opcode c)) :
    i.wf c = true := by
  subst harity
  simp only [Instr.wf, Instr.operandOk, Instr.immediateOk, Bool.and_eq_true, decide_eq_true_eq]
  exact ⟨⟨hid, how⟩, himm⟩

/-- The words of an instruction are those of what it carries (R44). -/
theorem encode_of_carries {c : Config} {i : Instr} {op : OpId} {h : Head} {ow imm : Option Word}
    (hi : i.Carries c op h ow imm) : encode c i = headWord op h :: (ow.toList ++ imm.toList) := by
  obtain ⟨rfl, rfl, rfl, rfl⟩ := hi
  rfl

/-- From an instruction word followed by exactly the trailing words of its layout, decode makes the instruction of its id,
and leaves what follows (R58 to R64). -/
theorem decode_headWord_cons {c : Config} {op : OpId} {h : Head} {ow imm : Option Word}
    (how : ow.isSome = decide (1 ≤ regCount (c.arity op) h)) (himm : imm.isSome = c.isImmCopy op) (rest : List Word) :
    decode c (headWord op h :: (ow.toList ++ (imm.toList ++ rest))) = .ok (instrOf c op h ow imm, rest) := by
  simp only [decode, opcodeField_headWord, headField_headWord, takeWord_toList how, takeWord_toList himm]

/-! ### The two round trips -/

/-- Settles O2: decode reads back the id, the fields and the trailing words, and the id's row is the instruction's own. -/
theorem decodeOfEncode : Obligations.DecodeOfEncode := by
  intro c i rest hwf hi
  have hdecode := decode_headWord_cons (wf_operand hi) (wf_immediate hi) rest
  rw [instrOf_opcode hwf (wf_idOk hi)] at hdecode
  rw [encode, List.cons_append, List.append_assoc]
  exact hdecode

/-- Settles O3: the instruction carries the fields and words that were read, which are put together again without loss. -/
theorem encodeOfDecode : Obligations.EncodeOfDecode := by
  intro c ws rest i hwf hdecode
  cases ws with
  | nil => contradiction
  | cons w ws =>
    obtain ⟨ow, imm, rfl, rfl, how, himm⟩ := decode_cons_eq_ok hdecode
    have hcarries := instrOf_carries (h := headField w) hwf how himm
    have ⟨hop, hhead, how', himm'⟩ := hcarries
    refine ⟨wf_of_shape (instrOf_idOk hwf hop) (congrArg c.arity hop) ?operand ?immediate, ?words⟩
    case operand => rw [how', hhead, how]
    case immediate => rw [himm', hop, himm]
    case words =>
      rw [encode_of_carries hcarries, headWord_fields, List.cons_append, List.append_assoc]

/-! ### The sample words -/

/-- An instruction word and exactly the trailing words of its layout decode to the instruction they stand for. -/
theorem decode_eq_of_headWord_eq {c : Config} {i : Instr} {w : Word} (hwf : c.wf = true) (hi : i.wf c = true)
    (hword : headWord (i.opcode c) i.head = w) : decode c (w :: (i.opword.toList ++ i.imm.toList)) = .ok (i, []) := by
  subst hword
  have hdecode := decodeOfEncode c i [] hwf hi
  rwa [List.append_nil] at hdecode

/-- An instruction of the ERROR class is well formed at every unpopulated id but the sentinel's (R144). -/
theorem errorClass_wf {c : Config} {op : OpId} (hwf : c.wf = true) (hp : c.populated op = false)
    (hsentinel : op.toNat ≠ c.sentinelId) (h : Head) : (Instr.errorClass op h).wf c = true := by
  obtain ⟨hk, hi⟩ := shape_of_not_populated hwf hp h
  have hnone : false = decide (1 ≤ regCount (c.arity op) h) := by rw [hk]; rfl
  exact wf_of_shape (errorClass_idOk hp hsentinel h) rfl hnone hi.symm

/-- Settles O5: each list of sample words is the encoding of the well-formed instruction it stands for. -/
theorem sampleWordsDecode : Obligations.SampleWordsDecode := by
  intro c hwf
  have hbounds := Config.wf_bounds hwf
  refine ⟨fun harity hi => ?op5, fun hi => ?op66, ?immCopy, fun hsentinel => ?errorClass⟩
  case op5 =>
    have hnot : c.isImmCopy 5 = false := isImmCopy_eq_false_iff.mpr hi.symm
    have hid : (!c.isImmCopy 5) = true := (Bool.not_eq_true' _).mpr hnot
    have h2 : c.arity 5 = 2 := (arityId_low (by decide)).trans harity
    have hwf5 : (Instr.op5 ⟨0, 0, 0, 0⟩ (some 0x0120#16) none).wf c = true := wf_of_shape hid h2 rfl hnot.symm
    have hword : headWord 5 ⟨0, 0, 0, 0⟩ = 0x0005#16 := by decide
    exact decode_eq_of_headWord_eq hwf hwf5 hword
  case op66 =>
    have hnot : c.isImmCopy 66 = false := isImmCopy_eq_false_iff.mpr hi.symm
    have hid : (!c.isImmCopy 66) = true := (Bool.not_eq_true' _).mpr hnot
    have h2 : c.arity 66 = 2 := arityId_high (id := 66) hwf (by omega)
    have hwfReg : (Instr.op66 ⟨1, 0, 0, 0⟩ (some 0x0120#16) none).wf c = true := wf_of_shape hid h2 rfl hnot.symm
    have hwfNonReg : (Instr.op66 ⟨2, 2, 0, 0⟩ none none).wf c = true := wf_of_shape hid h2 rfl hnot.symm
    have hwordReg : headWord 66 ⟨1, 0, 0, 0⟩ = 0x4042#16 := by decide
    have hwordNonReg : headWord 66 ⟨2, 2, 0, 0⟩ = 0xA042#16 := by decide
    exact ⟨decode_eq_of_headWord_eq hwf hwfReg hwordReg, decode_eq_of_headWord_eq hwf hwfNonReg hwordNonReg⟩
  case immCopy =>
    have hop : (BitVec.ofNat 9 c.immCopyId).toNat = c.immCopyId := toNat_ofNat9 ((immCopyId_le hwf).trans (by decide))
    have h2 : c.arity (.ofNat 9 c.immCopyId) = 2 := ((hasRow_immCopy hwf).columns_at hop).1
    have hwfImm : (Instr.immCopy ⟨0, 2, 0, 0⟩ (some 0x0050#16) (some 0xBEEF#16)).wf c = true :=
      wf_of_shape rfl h2 rfl (isImmCopy_eq_true_iff.mpr hop).symm
    have hword : headWord (.ofNat 9 c.immCopyId) ⟨0, 2, 0, 0⟩ = .ofNat 16 (0x2000 + c.immCopyId) := by
      rw [headWord_eq_instructionWord, hop]
      rfl
    exact decode_eq_of_headWord_eq hwf hwfImm hword
  case errorClass =>
    have hp : c.populated 511#9 = false := populatedId_eq_false_iff (id := 511).mpr (by omega)
    have hword : headWord 511 ⟨3, 3, 3, 1⟩ = 0xFFFF#16 := by decide
    exact decode_eq_of_headWord_eq hwf (errorClass_wf hwf hp hsentinel.symm _) hword

end Sys2Proof
end
